-- ==== Sys2Proof/Word.lean ====
section
/-! DEFINITION. The widths of GF128MUL's values (spec/00_scope.md R8, R9): every value is an unsigned
bit vector, bit `i` of weight `2^i`. -/

namespace Sys2Proof

/-- A field element, an operand or a result: 128 bits, bit `i` the coefficient of `x^i` (R8 `W`, R40). -/
abbrev Elem := BitVec 128

/-- The carry-less product before reduction: 256 bits (R8 `PW`, R43). -/
abbrev Product := BitVec 256

/-- The request beat written as one word, `{req_a, req_b}` (R46). -/
abbrev RequestWord := BitVec 256

/-- A byte of the host's database block (R31); the block itself has no bytes. -/
abbrev Byte := BitVec 8

end Sys2Proof
end

