-- ==== Sys2Proof/Syntax.lean ====
section
/-! DEFINITION. The operations of GF128MUL, one constructor per row of spec/opcode_table.json. -/

namespace Sys2Proof

/-- The operation map has one row (spec/30_encoding.md R49). -/
inductive Instr where
  /-- `GFMUL a, b`: the product of two field elements (spec/41_gfmul_transaction.md R90). -/
  | gfmul (a b : Elem)
deriving DecidableEq, Repr

/-- The pseudo-operation `GFSQR s`, which expands to the one request beat `{s, s}` (R53). -/
def Instr.gfsqr (s : Elem) : Instr := .gfmul s s

end Sys2Proof
end

