-- ==== Sys2Proof/WellFormed.lean ====
section
/-! DEFINITION. Which operations and which beats are well formed. Every operand pair is (spec/30_encoding.md
R41, R50: no operand value is invalid and no request word illegal); the one thing that can be wrong with
something offered as a request beat is its length (R51). -/

namespace Sys2Proof

/-- Every `GFMUL` is well formed, whatever its operands (R41, R50). -/
def Instr.wellFormed (i : Instr) : Bool :=
  match i with
  | .gfmul _ _ => true

/-- A request beat has 256 bits, which is 32 bytes (R46, R51). -/
def requestBytes : Nat := 32

/-- The length check of the byte decoder: a request beat has neither more nor fewer than 256 bits (R51). -/
def requestLengthOk (bytes : List Byte) : Bool := bytes.length == requestBytes

end Sys2Proof
end

