-- ==== Sys2Proof/Decode.lean ====
section
/-! DEFINITION. Decoding and encoding of request beats (spec/30_encoding.md R46 to R51). The map has one row and
no opcode bits, so a 256-bit word always decodes; a byte sequence decodes when it is one whole beat. -/

namespace Sys2Proof

/-- Why a byte sequence is no request beat. -/
inductive DecodeError where
  /-- The sequence has `nbytes` bytes, not 32 (R51). Raised by `decodeBytes` only, never by the machine, whose
  ports always carry a whole beat. Safe: nothing runs. -/
  | notARequestBeat (nbytes : Nat)
deriving DecidableEq, Repr

/-- Operand `a = REQ[255:128]` (R46, R48). -/
def fieldA (w : RequestWord) : Elem := w.extractLsb' 128 128

/-- Operand `b = REQ[127:0]` (R46, R48). -/
def fieldB (w : RequestWord) : Elem := w.extractLsb' 0 128

/-- The word `{a, b}` of a request beat (R46). -/
def requestWord (a b : Elem) : RequestWord := a ++ b

/-- The decoder of R49: the constant function `GFMUL` with the word's two operands. -/
def decode (w : RequestWord) : Instr := .gfmul (fieldA w) (fieldB w)

/-- The request beat of an operation (R46). -/
def encode (i : Instr) : RequestWord :=
  match i with
  | .gfmul a b => requestWord a b

/-- The number a byte sequence stands for, its first byte the least significant.
DESIGN CHOICE (log 9): the block has no bytes (R31); this is the numbering of spec/opcode_table.json. -/
def natOfBytes : List Byte → Nat
  | [] => 0
  | b :: bs => b.toNat + 256 * natOfBytes bs

/-- The low `n` bytes of a number, the least significant first (log 9). -/
def bytesOfNat : Nat → Nat → List Byte
  | 0, _ => []
  | n + 1, w => BitVec.ofNat 8 w :: bytesOfNat n (w / 256)

/-- The decoder on any bytes: one whole request beat, or rejected by name (R51). -/
def decodeBytes (bytes : List Byte) : Except DecodeError Instr :=
  if requestLengthOk bytes then .ok (decode (BitVec.ofNat 256 (natOfBytes bytes)))
  else .error (.notARequestBeat bytes.length)

/-- The 32 bytes of an operation's request beat. -/
def encodeBytes (i : Instr) : List Byte := bytesOfNat requestBytes (encode i).toNat

/-- The operation the decoder reads from a table word of `nbits` bits, the bits above `nbits` zero. A form longer
than the 256 bits of a request beat does not exist (R51). -/
def decodeTableWord (nbits w : Nat) : Option Instr :=
  if nbits ≤ 256 then
    match decodeBytes (bytesOfNat requestBytes (w % 2 ^ nbits)) with
    | .ok i => some i
    | .error _ => none
  else none

end Sys2Proof
end

