-- ==== Sys2Proof/Config.lean ====
section
/-! DEFINITION. What the spec leaves open: its parameters (spec/00_scope.md R8, spec/93_implementation_defined.md
P1 to P3) and the values it leaves unspecified (93 U1, U2). A free value is an opaque constant applied to the number
of the edge at which it is drawn: nothing can be proved of it, and a statement holds whatever it is. -/

namespace Sys2Proof

/-- The open parameter `IMPL` (R8, R66): which datapath is built. Never observable in a result (R71). -/
inductive Impl where
  | parallel
  | serial
deriving DecidableEq, Repr

/-- The open host parameter `BLOCK_BYTE_ORDER` (R8, R31). The block never sees bytes. -/
inductive ByteOrder where
  | little
  | big
deriving DecidableEq, Repr

namespace Config

/-- The open parameter `LATENCY`, less one: any natural number (R8, log 4). -/
opaque latencyMinusOne : Nat

/-- `LATENCY`, the edges from ISSUE to EXECUTE: some constant, at least 1 (R8, R97, R100). -/
def latency : Nat := latencyMinusOne + 1

/-- `S.A` where it is unspecified: in IDLE and in DONE (R25, 93 U2). Drawn at the edge that enters the phase (log 2, log 6). -/
opaque freeOpA : Nat → Elem

/-- `S.B` where it is unspecified, as `freeOpA`. -/
opaque freeOpB : Nat → Elem

/-- `S.cnt` after RESET, before R17's bound is applied (R29, 93 U2; log 2). -/
opaque freeCnt : Nat → Nat

/-- The value on port `rsp_p` in a cycle with `rsp_valid = 0` (R44, 93 U1; log 2). -/
opaque freeRspP : Nat → Elem

/-- The host's `rst` at an edge the script does not reach (R96: the host may reset at any time; log 1). -/
opaque hostRst : Nat → Bool

/-- The host's `req_valid` at an edge the script does not reach (R96; log 1). -/
opaque hostReqValid : Nat → Bool

/-- The host's `req_a` at an edge the script does not reach (R96; log 1). -/
opaque hostReqA : Nat → Elem

/-- The host's `req_b` at an edge the script does not reach (R96; log 1). -/
opaque hostReqB : Nat → Elem

/-- The host's `rsp_ready` at an edge the script does not reach (R96; log 1). -/
opaque hostRspReady : Nat → Bool

end Config

end Sys2Proof
end

