-- ==== Sys2Proof/Machine/Field.lean ====
section
/-! DEFINITION. The value of `GFMUL`: carry-less multiplication, reduction, their product, and every other way of
computing them that the spec gives (spec/40_field_multiply.md R60 to R80). Loops are written as the value after `n`
passes, so that they recurse on `n`. -/

namespace Sys2Proof.Machine

/-- `rep_n(c)`: `n` copies of the bit `c` (spec/00_scope.md R10). -/
def repBits (n : Nat) (c : Bool) : BitVec n := if c then BitVec.allOnes n else 0

/-! ### Constants (spec/30_encoding.md R42) -/

/-- The additive identity. -/
def elemZero : Elem := 0x00000000000000000000000000000000#128
/-- The multiplicative identity, the source's "`1`". -/
def elemOne : Elem := 0x00000000000000000000000000000001#128
/-- The element `x`. -/
def elemX : Elem := 0x00000000000000000000000000000002#128
/-- `x^127`, the highest coefficient. -/
def elemTop : Elem := 0x80000000000000000000000000000000#128
/-- `f(x)` without its leading term, `x^7+x^2+x+1`. -/
def rpoly : Elem := 0x00000000000000000000000000000087#128
/-- The reduction polynomial `x^128+x^7+x^2+x+1` (R3), 129 bits. -/
def fpoly : BitVec 129 := 0x100000000000000000000000000000087#129

/-! ### Stage one: carry-less multiplication -/

/-- `a << i` in unbounded naturals, seen in 256 bits: nothing is cut off for `i ≤ 127` (R60). -/
def shiftedCopy (a : Elem) (i : Nat) : Product := a.setWidth 256 <<< i

/-- `CLMUL(a, b)` (R60): the XOR of `a << i` over exactly those `i` for which `b[i] = 1`. -/
def clmul (a b : Elem) : Product :=
  ((List.range 128).filter fun i => b.getLsbD i).foldl (fun acc i => acc ^^^ shiftedCopy a i) 0

/-- Bit `k` of the carry-less product by R60's first form: the XOR of `a[i] & b[j]` over `i + j = k`. -/
def clmulBit (a b : Elem) (k : Nat) : Bool :=
  ((List.range 128).filter fun i => decide (i ≤ k)).foldl
    (fun acc i => acc ^^ (a.getLsbD i && b.getLsbD (k - i))) false

/-- `HI(c) = c[255:128]` (R62). -/
def hi (c : Product) : Elem := c.extractLsb' 128 128

/-- `LO(c) = c[127:0]` (R62). -/
def lo (c : Product) : Elem := c.extractLsb' 0 128

/-! ### Stage two: reduction modulo `f(x)` -/

/-- `FPOLY << k` in 256 bits: nothing is cut off for `k ≤ 127` (R63). -/
def shiftedFpoly (k : Nat) : Product := fpoly.setWidth 256 <<< k

/-- Long division, the passes for bits `127+n` down to 128 (R63): clear each high bit that is set. -/
def reduceLoop : Nat → Product → Product
  | 0, c => c
  | n + 1, c => reduceLoop n (if c.getLsbD (128 + n) then c ^^^ shiftedFpoly n else c)

/-- `REDUCE(c)` (R63): the remainder of `poly(c)` on division by `f(x)`. -/
def reduce (c : Product) : Elem := lo (reduceLoop 128 c)

/-- `T : u7`, the bits the first fold pushes past bit 127 (R64). -/
def foldCarry (h : Elem) : BitVec 7 := ((h >>> 127) ^^^ (h >>> 126) ^^^ (h >>> 121)).setWidth 7

/-- `REDUCE_FOLD(c)` (R64). -/
def reduceFold (c : Product) : Elem :=
  let d : Elem := hi c ^^^ (foldCarry (hi c)).setWidth 128
  lo c ^^^ d ^^^ (d <<< 1) ^^^ (d <<< 2) ^^^ (d <<< 7)

/-- `W : u135`, the high half times `x^7+x^2+x+1`, not truncated (R64). -/
def foldWide (h : Elem) : BitVec 135 :=
  let w := h.setWidth 135
  w ^^^ (w <<< 1) ^^^ (w <<< 2) ^^^ (w <<< 7)

/-- The second fold's contribution, `T ^ (T<<1) ^ (T<<2) ^ (T<<7)` (R64). -/
def foldTail (t : BitVec 7) : Elem :=
  let u := t.setWidth 128
  u ^^^ (u <<< 1) ^^^ (u <<< 2) ^^^ (u <<< 7)

/-- `REDUCE_FOLD2(c)` (R64): the same in two explicit folds. -/
def reduceFold2 (c : Product) : Elem :=
  let w := foldWide (hi c)
  lo c ^^^ w.setWidth 128 ^^^ foldTail ((w >>> 128).setWidth 7)

/-! ### The field multiplication -/

/-- `MULTIPLY(a, b) = REDUCE(CLMUL(a, b))` (R65), the source's `Multiply`. -/
def multiply (a b : Elem) : Elem := reduce (clmul a b)

/-- The bit-reflected convention of GCM (spec/93_implementation_defined.md G2, general knowledge of the spec's writer,
nothing normative): for cross-checking only. The block does not compute it (R40). -/
def gcmMultiply (x y : Elem) : Elem := (multiply x.reverse y.reverse).reverse

/-! ### Implementation styles -/

/-- `clmul64(u, v) : u128`, the carry-less product of two 64-bit values (R67). -/
def clmul64 (u v : BitVec 64) : BitVec 128 :=
  ((List.range 64).filter fun i => v.getLsbD i).foldl (fun acc i => acc ^^^ (u.setWidth 128 <<< i)) 0

/-- The low 64-bit half of an operand (R67). -/
def limb0 (a : Elem) : BitVec 64 := a.extractLsb' 0 64

/-- The high 64-bit half of an operand (R67). -/
def limb1 (a : Elem) : BitVec 64 := a.extractLsb' 64 64

/-- The carry-less product from four 64-bit products (R67). -/
def clmulFour (a b : Elem) : Product :=
  (clmul64 (limb0 a) (limb0 b)).setWidth 256
    ^^^ ((clmul64 (limb0 a) (limb1 b) ^^^ clmul64 (limb1 a) (limb0 b)).setWidth 256 <<< 64)
    ^^^ ((clmul64 (limb1 a) (limb1 b)).setWidth 256 <<< 128)

/-- The carry-less product from three 64-bit products (R67). -/
def clmulThree (a b : Elem) : Product :=
  let l := clmul64 (limb0 a) (limb0 b)
  let h := clmul64 (limb1 a) (limb1 b)
  let m := clmul64 (limb0 a ^^^ limb1 a) (limb0 b ^^^ limb1 b) ^^^ l ^^^ h
  l.setWidth 256 ^^^ (m.setWidth 256 <<< 64) ^^^ (h.setWidth 256 <<< 128)

/-- The serial accumulator after `n` iterations of R68: every iteration runs, under a mask. -/
def clmulSerialLoop (a b : Elem) : Nat → Product
  | 0 => 0
  | n + 1 => clmulSerialLoop a b n ^^^ (shiftedCopy a n &&& repBits 256 (b.getLsbD n))

/-- `CLMUL_SERIAL(a, b)` (R68): always 128 iterations. -/
def clmulSerial (a b : Elem) : Product := clmulSerialLoop a b 128

/-- The serial reduction's passes for bits `127+n` down to 128 (R69), each under a mask. -/
def reduceSerialLoop : Nat → Product → Product
  | 0, c => c
  | n + 1, c => reduceSerialLoop n (c ^^^ (shiftedFpoly n &&& repBits 256 (c.getLsbD (128 + n))))

/-- `REDUCE_SERIAL(c)` (R69): a fixed count of passes. -/
def reduceSerial (c : Product) : Elem := lo (reduceSerialLoop 128 c)

/-- `XTIME(v)`: multiplication by `x` (R70, R78). -/
def xtime (v : Elem) : Elem := (v <<< 1) ^^^ (rpoly &&& repBits 128 (v.getLsbD 127))

/-- `xtime` applied `k` times: multiplication by `x^k` (R78). -/
def xtimes : Nat → Elem → Elem
  | 0, v => v
  | k + 1, v => xtime (xtimes k v)

/-- The result register of `MULTIPLY_LSB_FIRST` after `n` iterations (R70); the shifting operand is then `a * x^n`. -/
def lsbFirstLoop (a b : Elem) : Nat → Elem × Elem
  | 0 => (0, a)
  | n + 1 =>
    let (r, s) := lsbFirstLoop a b n
    (r ^^^ (s &&& repBits 128 (b.getLsbD n)), xtime s)

/-- `MULTIPLY_LSB_FIRST(a, b)` (R70): `b` scanned from bit 0 up. -/
def multiplyLsbFirst (a b : Elem) : Elem := (lsbFirstLoop a b 128).1

/-- The register of `MULTIPLY_MSB_FIRST` after the iterations for bits 127 down to `128 - n` (R70, Horner). -/
def msbFirstLoop (a b : Elem) : Nat → Elem
  | 0 => 0
  | n + 1 => xtime (msbFirstLoop a b n) ^^^ (a &&& repBits 128 (b.getLsbD (127 - n)))

/-- `MULTIPLY_MSB_FIRST(a, b)` (R70): `b` scanned from bit 127 down. -/
def multiplyMsbFirst (a b : Elem) : Elem := msbFirstLoop a b 128

/-- What each datapath style computes (R66): the parallel one folds a combinational product, the serial one runs the
two bit-serial stages. DESIGN CHOICE (log 16): R66 allows the serial one any of the forms of R68 to R70, and the two
stages of R68 and R69 stand for it here; the interleaved forms of R70 give the same value (R71). That the choice never changes a result is R71, a statement about these definitions. -/
def datapath (impl : Impl) (a b : Elem) : Elem :=
  match impl with
  | .parallel => reduceFold (clmul a b)
  | .serial => reduceSerial (clmulSerial a b)

/-! ### Squaring, powers and the inversion recipe -/

/-- The bits of `a` below `n`, spread out: bit `2i` is `a[i]`, odd bits 0 (R61(g), R79). -/
def spreadLoop (a : Elem) : Nat → Product
  | 0 => 0
  | n + 1 => spreadLoop a n ||| (if a.getLsbD n then (1#256 <<< (2 * n)) else 0)

/-- `spread(a)` (R79). -/
def spread (a : Elem) : Product := spreadLoop a 128

/-- `a` multiplied by itself `n` times over: `a^n`, `a^0 = ONE`. -/
def fieldPow (a : Elem) : Nat → Elem
  | 0 => elemOne
  | n + 1 => multiply (fieldPow a n) a

/-- `a^(2^n)` by `n` squarings (R79, R80). -/
def squarings (a : Elem) : Nat → Elem
  | 0 => a
  | n + 1 => multiply (squarings a n) (squarings a n)

/-- The product of `a^(2^i)` for `i` in `1..n+1` (R80's recipe): `n` multiplications. -/
def inverseLoop (a : Elem) : Nat → Elem
  | 0 => squarings a 1
  | n + 1 => multiply (inverseLoop a n) (squarings a (n + 2))

/-- The inverse a host computes (R80): the product of `a^(2^i)` for `i` in `1..127`, which is `a^(2^128 - 2)`. -/
def inverse (a : Elem) : Elem := inverseLoop a 126

end Sys2Proof.Machine
end

