-- ==== Sys2Proof/Machine/State.lean ====
section
/-! DEFINITION. The state of GF128MUL (spec/10_state.md R17 to R29), the values on its input ports
(spec/30_encoding.md R44), and the model's own record of what the host will drive and has seen. -/

namespace Sys2Proof.Machine

/-- Where the one transaction stands (R24): exactly three values, no binary encoding. -/
inductive Phase where
  | idle
  | busy
  | done
deriving DecidableEq, Repr

/-- The values on the five input ports at one rising edge (R44); `clk` is the edge itself. -/
structure Ports where
  rst : Bool
  reqValid : Bool
  reqA : Elem
  reqB : Elem
  rspReady : Bool
deriving DecidableEq, Repr

/-- What a run is observed by (spec/41_gfmul_transaction.md R101). -/
inductive Event where
  /-- A request beat transferred: an ISSUE step (R91). -/
  | issued (a b : Elem)
  /-- A response beat transferred, with the value that stood on `rsp_p`: a RETIRE step (R93). -/
  | responded (p : Elem)
  /-- A RESET step (spec/70_reset_and_hazards.md R120). -/
  | reset
deriving DecidableEq, Repr

/-- The steps of the cycle-level machine (R97): those of R95 and TICK. -/
inductive StepName where
  | reset
  | issue
  | tick
  | execute
  | retire
  | hold
deriving DecidableEq, Repr

/-- The state: the record `S` of R17, then three fields of the model's own. -/
structure State where
  /-- `S.phase` (R24). -/
  phase : Phase
  /-- `S.A`, the first operand of the transaction in flight (R25). -/
  opA : Elem
  /-- `S.B`, the second operand of the transaction in flight (R25). -/
  opB : Elem
  /-- `S.P`, present only in DONE, as R26 asks of a model. -/
  prod : Option Elem
  /-- `S.cnt`, the edges still to spend in BUSY (R27). -/
  cnt : Nat
  /-- The MODEL's: what the host drives at the coming edges, the next edge first (R28, R96; log 1). -/
  script : List Ports
  /-- The MODEL's: how many edges have passed (R98 numbers them); indexes the free values (log 2). -/
  edge : Nat
  /-- The MODEL's: what the host has observed, newest first (R101; log 5). -/
  trace : List Event
deriving DecidableEq, Repr

/-- Reasons to stop. There are none: "no step of the block has a fault outcome" (R95, spec/60_exceptions.md R105). -/
inductive Fault where
deriving DecidableEq, Repr

/-- Reasons to have no meaning for an operation. -/
inductive Refusal where
  /-- The arm of an operation that has no meaning yet. No arm raises it: every operation of the table has its
  meaning, and R50 says every request word has one. Safe. -/
  | notModelled (mnemonic : String)
deriving DecidableEq, Repr

/-- The block just after a RESET step (R29, R120): IDLE, no result held.
DESIGN CHOICE, unsafe (log 3): the spec leaves `S.A`, `S.B`, `S.cnt` unspecified and they are 0 here.
The model's own fields start empty (log 1, log 2, log 5). -/
def State.reset : State where
  phase := .idle
  opA := 0
  opB := 0
  prod := none
  cnt := 0
  script := []
  edge := 0
  trace := []

end Sys2Proof.Machine
end

