-- ==== Sys2Proof/Machine/Ops.lean ====
section
/-! DEFINITION. The ports, and the steps a rising edge can take (spec/30_encoding.md R44, R45;
spec/41_gfmul_transaction.md R91 to R99; spec/70_reset_and_hazards.md R120). Taking an exception and returning from
one are not here because the block has neither (spec/60_exceptions.md R105, R109, R110); nor is memory (R30). -/

namespace Sys2Proof.Machine

/-! ### Ports -/

/-- What the host drives at edge `e` if the script does not say: anything (R96; log 1). -/
def hostPorts (e : Nat) : Ports where
  rst := Config.hostRst e
  reqValid := Config.hostReqValid e
  reqA := Config.hostReqA e
  reqB := Config.hostReqB e
  rspReady := Config.hostRspReady e

/-- The inputs sampled at the coming edge (R45, R97). -/
def State.ports (s : State) : Ports :=
  match s.script with
  | p :: _ => p
  | [] => hostPorts s.edge

/-- Output `req_ready`, equal to `(S.phase = IDLE)` (R44). -/
def State.reqReady (s : State) : Bool :=
  match s.phase with
  | .idle => true
  | .busy => false
  | .done => false

/-- Output `rsp_valid`, equal to `(S.phase = DONE)` (R44). -/
def State.rspValid (s : State) : Bool :=
  match s.phase with
  | .idle => false
  | .busy => false
  | .done => true

/-- Output `rsp_p`: `S.P` while `rsp_valid = 1`, a free value otherwise (R44, R26, 93 U1; log 2). -/
def State.rspP (s : State) : Elem :=
  match s.phase, s.prod with
  | .done, some p => p
  | _, _ => Config.freeRspP s.edge

/-! ### Steps (R97), each with LATENCY as an argument where its row uses it -/

/-- Step RESET (R120): IDLE, the data registers unspecified, no beat transfers. `S.cnt` is drawn within R17's bound. -/
def resetEdge (latency : Nat) (s : State) : State where
  phase := .idle
  opA := Config.freeOpA s.edge
  opB := Config.freeOpB s.edge
  prod := none
  cnt := Config.freeCnt s.edge % latency
  script := s.script.tail
  edge := s.edge + 1
  trace := .reset :: s.trace

/-- Step ISSUE (R91, R97): the operands are latched and the count loaded; the request beat transfers. `S.P` is not
written, as in R97's row, so it stays absent where IDLE had none (log 17). -/
def issueEdge (latency : Nat) (a b : Elem) (s : State) : State where
  phase := .busy
  opA := a
  opB := b
  prod := s.prod
  cnt := latency - 1
  script := s.script.tail
  edge := s.edge + 1
  trace := .issued a b :: s.trace

/-- Step TICK (R97): one edge fewer to spend in BUSY. `S.P` stays as it was (log 17). -/
def countEdge (s : State) : State where
  phase := s.phase
  opA := s.opA
  opB := s.opB
  prod := s.prod
  cnt := s.cnt - 1
  script := s.script.tail
  edge := s.edge + 1
  trace := s.trace

/-- Step EXECUTE (R92, R97): the product is in `S.P`; `S.A` and `S.B` are unspecified from here on (R25; log 6). -/
def executeEdge (s : State) : State where
  phase := .done
  opA := Config.freeOpA s.edge
  opB := Config.freeOpB s.edge
  prod := some (multiply s.opA s.opB)
  cnt := s.cnt
  script := s.script.tail
  edge := s.edge + 1
  trace := s.trace

/-- Step RETIRE (R93, R97): the response beat transfers what stands on `rsp_p`; `S.P` is absent afterwards, and
`S.A`, `S.B` stay unspecified (R25; log 6). -/
def retireEdge (s : State) : State where
  phase := .idle
  opA := Config.freeOpA s.edge
  opB := Config.freeOpB s.edge
  prod := none
  cnt := s.cnt
  script := s.script.tail
  edge := s.edge + 1
  trace := .responded s.rspP :: s.trace

/-- Step HOLD (R94): the block's state does not change, `S.A` and `S.B` (log 6) and `S.P` (log 17) included. -/
def holdEdge (s : State) : State where
  phase := s.phase
  opA := s.opA
  opB := s.opB
  prod := s.prod
  cnt := s.cnt
  script := s.script.tail
  edge := s.edge + 1
  trace := s.trace

/-- An edge with `rst = 0` at which no request beat transfers: the rows of R97 but for RESET and ISSUE. -/
def waitEdge (s : State) : State :=
  match s.phase with
  | .idle => holdEdge s
  | .busy => if s.cnt = 0 then executeEdge s else countEdge s
  | .done => if s.ports.rspReady then retireEdge s else holdEdge s

/-- An edge with `rst = 0` at which the host offers the request beat `{a, b}`: accepted in IDLE, otherwise not
looked at (R91, R99). -/
def requestEdge (latency : Nat) (a b : Elem) (s : State) : State :=
  match s.phase with
  | .idle => issueEdge latency a b s
  | .busy => waitEdge s
  | .done => waitEdge s

/-- The name of the row of R97 that applies, reading down. -/
def stepName (s : State) : StepName :=
  if s.ports.rst then .reset
  else match s.phase with
    | .idle => if s.ports.reqValid then .issue else .hold
    | .busy => if s.cnt = 0 then .execute else .tick
    | .done => if s.ports.rspReady then .retire else .hold

/-- One rising edge of a block with the given LATENCY: the row of R97 named by `stepName`. -/
def clockEdge (latency : Nat) (s : State) : State :=
  match stepName s with
  | .reset => resetEdge latency s
  | .issue => issueEdge latency s.ports.reqA s.ports.reqB s
  | .tick => countEdge s
  | .execute => executeEdge s
  | .retire => retireEdge s
  | .hold => holdEdge s

/-- `n` rising edges of a block with the given LATENCY. -/
def runEdges (latency : Nat) : Nat → State → State
  | 0, s => s
  | n + 1, s => runEdges latency n (clockEdge latency s)

end Sys2Proof.Machine
end

