-- ==== Sys2Proof/Machine/Gfmul.lean ====
section
/-! DEFINITION. The meaning of the one operation (spec/41_gfmul_transaction.md R90): carried out as an ISSUE step,
then by the block's own TICK and EXECUTE steps, then a RETIRE step. -/

namespace Sys2Proof.Machine

/-- `GFMUL a, b` offered as a request beat at an edge with `rst = 0` (R90, R91). In IDLE it is accepted: the operands
are latched, and `LATENCY` edges later `S.P` holds `MULTIPLY(a, b)`. In BUSY and in DONE the host waits and the block
goes on with the transaction it holds (R91, R99). `rst = 1` is dealt with by the step, which then runs no operation (R108). -/
def execGfmul (a b : Elem) (s : State) : Host.Outcome State Fault Refusal :=
  .next (requestEdge Config.latency a b s)

end Sys2Proof.Machine
end

