-- ==== Sys2Proof/Machine/Step.lean ====
section
/-! DEFINITION. The step: one rising edge of `clk` (spec/41_gfmul_transaction.md R97). -/

namespace Sys2Proof.Machine

/-- One rising edge. `rst = 1` is RESET and nothing else (R108). Otherwise, if the host offers a request beat, the
operation that the beat's word decodes to is run; if it offers none, the block goes on by itself. -/
def step (s : State) : Host.Outcome State Fault Refusal :=
  if s.ports.rst then .next (resetEdge Config.latency s)
  else if s.ports.reqValid then exec (decode (requestWord s.ports.reqA s.ports.reqB)) s
  else .next (waitEdge s)

/-- The ports of a host that offers the request beat `w`. -/
def offerPorts (w : RequestWord) : Ports where
  rst := false
  reqValid := true
  reqA := fieldA w
  reqB := fieldB w
  rspReady := false

/-- `s` with the request beat `w` (its bits above `nbits` zero) offered at the very next edge, to a block that is in
IDLE, the one phase that accepts a request (R91). A program is the beats the host presents (R38; log 8). -/
def State.withFetchWord (s : State) (nbits w : Nat) : State :=
  { s with
    phase := .idle
    prod := none
    script := offerPorts (BitVec.ofNat 256 (w % 2 ^ nbits)) :: s.script }

end Sys2Proof.Machine
end

