-- ==== Sys2Proof/Machine/Poly.lean ====
section
/-! DEFINITION. The polynomial reading of values (spec/00_scope.md R3, R11), in Mathlib's polynomials over GF(2).
Statements are written in it; the machine does not use it. -/

namespace Sys2Proof.Machine

open Polynomial in
/-- `poly(v)`, the sum over `i` of `v[i] * x^i` (R11). -/
noncomputable def poly {n : Nat} (v : BitVec n) : (ZMod 2)[X] :=
  ∑ i ∈ Finset.range n, if v.getLsbD i then X ^ i else 0

open Polynomial in
/-- `f(x) = x^128 + x^7 + x^2 + x + 1` (R3). -/
noncomputable def fieldPoly : (ZMod 2)[X] := X ^ 128 + X ^ 7 + X ^ 2 + X + 1

/-- `deg(v)`, the index of the highest set bit, for `v ≠ 0` (R10). -/
def degree {n : Nat} (v : BitVec n) : Nat := Nat.log 2 v.toNat

end Sys2Proof.Machine
end

