-- ==== Sys2Proof/Machine/Operands.lean ====
section
/-! DEFINITION. Operands. A request beat's operands are taken whole and unchanged (spec/30_encoding.md R48), so
there is no operand form in the block; what is here is the host's conversion of a 16-byte block into an operand and
back, under the open parameter `BLOCK_BYTE_ORDER` (spec/20_memory.md R31). -/

namespace Sys2Proof.Machine

/-- 16 bytes, byte `k` in bits `8k+7 : 8k`. -/
def operandOfBytesLE : List Byte → Elem
  | [] => 0
  | b :: bs => b.setWidth 128 ||| (operandOfBytesLE bs <<< 8)

/-- The operand a 16-byte block stands for (R31). In order `big`, byte `k` becomes bits `127-8k : 120-8k`, which is
order `little` of the reversed block. -/
def operandOfBlock (order : ByteOrder) (block : List Byte) : Elem :=
  match order with
  | .little => operandOfBytesLE block
  | .big => operandOfBytesLE block.reverse

/-- The 16 bytes of an operand, the low byte first. -/
def bytesLEOfOperand (v : Elem) : List Byte :=
  (List.range 16).map fun k => v.extractLsb' (8 * k) 8

/-- The 16-byte block of an operand (R31), the way back. -/
def blockOfOperand (order : ByteOrder) (v : Elem) : List Byte :=
  match order with
  | .little => bytesLEOfOperand v
  | .big => (bytesLEOfOperand v).reverse

end Sys2Proof.Machine
end

