-- ==== Sys2Proof/Machine/Trace.lean ====
section
/-! DEFINITION. What a run is observed by (spec/41_gfmul_transaction.md R101). A trace is kept newest first; the
request and response traces read from it are in order of time, as R101 has them. -/

namespace Sys2Proof.Machine

/-- The request trace: the operand pairs of the ISSUE steps, in order (R101). -/
def requestTrace : List Event → List (Elem × Elem)
  | [] => []
  | .issued a b :: rest => requestTrace rest ++ [(a, b)]
  | .responded _ :: rest => requestTrace rest
  | .reset :: rest => requestTrace rest

/-- The response trace: the values of the RETIRE steps, in order (R101). -/
def responseTrace : List Event → List Elem
  | [] => []
  | .issued _ _ :: rest => responseTrace rest
  | .responded p :: rest => responseTrace rest ++ [p]
  | .reset :: rest => responseTrace rest

/-- The transaction accepted and neither answered nor discarded by a reset, if there is one. -/
def pendingRequest : List Event → Option (Elem × Elem)
  | [] => none
  | .issued a b :: _ => some (a, b)
  | .responded _ :: _ => none
  | .reset :: _ => none

/-- The expected response trace (R101): `MULTIPLY` of every request accepted, less each one that a RESET removed. -/
def expectedResponses : List Event → List Elem
  | [] => []
  | .issued a b :: rest => expectedResponses rest ++ [multiply a b]
  | .responded _ :: rest => expectedResponses rest
  | .reset :: rest =>
    match pendingRequest rest with
    | some _ => (expectedResponses rest).dropLast
    | none => expectedResponses rest

/-- The last response beat the host has taken, if any. -/
def lastResponse : List Event → Option Elem
  | [] => none
  | .issued _ _ :: rest => lastResponse rest
  | .responded p :: _ => some p
  | .reset :: rest => lastResponse rest

/-- A run has ended when the host has no further request, every accepted request has been retired and the phase is
IDLE (R101). The host's further requests are those of the script (log 1).
DESIGN CHOICE (log 15): a request that a later RESET discarded counts as settled, so that such a run can have ended. -/
def State.ended (s : State) : Bool :=
  s.reqReady && (pendingRequest s.trace).isNone && s.script.all fun p => !p.reqValid

end Sys2Proof.Machine
end

