-- ==== Sys2Proof/Machine/Script.lean ====
section
/-! DEFINITION. The written form of operations (spec/30_encoding.md R52, R53): scripts, what they mean by the field's
arithmetic alone, and how a host carries them out on the block. Host variables are numbered. -/

namespace Sys2Proof.Machine

/-- A host variable or a constant (R52). -/
inductive ScriptArg where
  | var (n : Nat)
  | lit (v : Elem)
deriving DecidableEq, Repr

/-- The statements of a script (R52, R53). A `host: repeat` is the list of its copies, `repeatOps`. -/
inductive ScriptOp where
  /-- `d <- GFMUL s, t`: one transaction. -/
  | gfmul (d : Nat) (s t : ScriptArg)
  /-- `d <- GFSQR s`, which stands for `d <- GFMUL s, s` (R53). -/
  | gfsqr (d : Nat) (s : ScriptArg)
  /-- `RESET`: `rst = 1` over one rising edge. -/
  | reset
  /-- `host: d <- s ^ t`. -/
  | hostXor (d : Nat) (s t : ScriptArg)
  /-- `host: d <- s`. -/
  | hostLet (d : Nat) (s : ScriptArg)
  /-- `host: expect d = v`. -/
  | hostExpect (d : Nat) (v : Elem)
deriving DecidableEq, Repr

/-- `host: repeat n times { body }` (R52). -/
def repeatOps (n : Nat) (body : List ScriptOp) : List ScriptOp := (List.replicate n body).flatten

/-- The host's side of a script: its variables, newest binding first, and whether every `expect` so far has held. -/
structure HostVars where
  vals : List (Nat × Elem)
  ok : Bool
deriving DecidableEq, Repr

/-- The value of an argument; a variable that nothing has bound has none. -/
def HostVars.value (h : HostVars) : ScriptArg → Option Elem
  | .var n => h.vals.lookup n
  | .lit v => some v

/-- Binding a name to a value. -/
def HostVars.bind (h : HostVars) (d : Nat) (v : Elem) : HostVars := { h with vals := (d, v) :: h.vals }

/-- Recording an `expect`. -/
def HostVars.expect (h : HostVars) (v w : Elem) : HostVars := { h with ok := h.ok && v == w }

/-- What a statement means by the arithmetic of spec/40_field_multiply.md alone; `none` where it reads an unbound
variable. The operands are read before `d` is bound (R52). -/
def evalOp (h : HostVars) : ScriptOp → Option HostVars
  | .gfmul d s t =>
    match h.value s, h.value t with
    | some a, some b => some (h.bind d (multiply a b))
    | _, _ => none
  | .gfsqr d s =>
    match h.value s with
    | some a => some (h.bind d (multiply a a))
    | none => none
  | .reset => some h
  | .hostXor d s t =>
    match h.value s, h.value t with
    | some a, some b => some (h.bind d (a ^^^ b))
    | _, _ => none
  | .hostLet d s =>
    match h.value s with
    | some a => some (h.bind d a)
    | none => none
  | .hostExpect d v =>
    match h.value (.var d) with
    | some a => some (h.expect a v)
    | none => none

/-- The meaning of a script. -/
def evalScript : List ScriptOp → HostVars → Option HostVars
  | [], h => some h
  | op :: ops, h =>
    match evalOp h op with
    | some h' => evalScript ops h'
    | none => none

/-! ### Carrying a script out on the block -/

/-- The host offers `{a, b}`; `rsp_ready` is low. -/
def offerBeat (a b : Elem) : Ports where
  rst := false
  reqValid := true
  reqA := a
  reqB := b
  rspReady := false

/-- The host waits: no request; it keeps the operands on the ports, where nothing looks at them. -/
def waitBeat (a b : Elem) : Ports where
  rst := false
  reqValid := false
  reqA := a
  reqB := b
  rspReady := false

/-- The host takes the response. -/
def takeBeat (a b : Elem) : Ports where
  rst := false
  reqValid := false
  reqA := a
  reqB := b
  rspReady := true

/-- The host holds `rst = 1`. -/
def resetBeat : Ports where
  rst := true
  reqValid := false
  reqA := 0
  reqB := 0
  rspReady := false

/-- What a host drives for one transaction of a block with the given LATENCY: `LATENCY + 2` edges (R98). -/
def transactionPorts (latency : Nat) (a b : Elem) : List Ports :=
  offerBeat a b :: (List.replicate latency (waitBeat a b) ++ [takeBeat a b])

/-- The host drives `ports`, and the block runs over them. -/
def drive (latency : Nat) (ports : List Ports) (s : State) : State :=
  runEdges latency ports.length { s with script := ports ++ s.script }

/-- One transaction `GFMUL a, b` on the block: its result, if a response beat has been taken, and the state after. -/
def transact (latency : Nat) (a b : Elem) (s : State) : Option Elem × State :=
  let t := drive latency (transactionPorts latency a b) s
  (lastResponse t.trace, t)

/-- A transaction whose result the host binds to `d`. -/
def transactInto (latency d : Nat) (a b : Elem) (h : HostVars) (s : State) : Option (HostVars × State) :=
  match transact latency a b s with
  | (some p, t) => some (h.bind d p, t)
  | (none, _) => none

/-- A statement carried out by host and block: `GFMUL`, `GFSQR` and `RESET` on the block, the rest by the host alone. -/
def runOp (latency : Nat) (h : HostVars) (s : State) (op : ScriptOp) : Option (HostVars × State) :=
  match op with
  | .gfmul d x y =>
    match h.value x, h.value y with
    | some a, some b => transactInto latency d a b h s
    | _, _ => none
  | .gfsqr d x =>
    match h.value x with
    | some a => transactInto latency d a a h s
    | none => none
  | .reset => some (h, drive latency [resetBeat] s)
  | .hostXor d x y => (evalOp h (.hostXor d x y)).map fun h' => (h', s)
  | .hostLet d x => (evalOp h (.hostLet d x)).map fun h' => (h', s)
  | .hostExpect d v => (evalOp h (.hostExpect d v)).map fun h' => (h', s)

/-- A script carried out by host and block. -/
def runScript (latency : Nat) : List ScriptOp → HostVars → State → Option (HostVars × State)
  | [], h, s => some (h, s)
  | op :: ops, h, s =>
    match runOp latency h s op with
    | some (h', s') => runScript latency ops h' s'
    | none => none

/-- Whether a statement is `d <- GFSQR s`. -/
def ScriptOp.isGfsqr : ScriptOp → Bool
  | .gfsqr _ _ => true
  | .gfmul _ _ _ => false
  | .reset => false
  | .hostXor _ _ _ => false
  | .hostLet _ _ => false
  | .hostExpect _ _ => false

/-- Whether a statement is `d <- GFMUL s, t`. -/
def ScriptOp.isGfmul : ScriptOp → Bool
  | .gfsqr _ _ => false
  | .gfmul _ _ _ => true
  | .reset => false
  | .hostXor _ _ _ => false
  | .hostLet _ _ => false
  | .hostExpect _ _ => false

/-- A host's inversion of variable 0 (spec/40_field_multiply.md R80): variable 1 runs through `a^(2^i)`, and variable 2
collects their product for `i` in `1..127`. -/
def inversionScript : List ScriptOp :=
  [.gfsqr 1 (.var 0), .hostLet 2 (.var 1)] ++ repeatOps 126 [.gfsqr 1 (.var 1), .gfmul 2 (.var 2) (.var 1)]

/-- The operations the field-weighted fold asks of the block (spec/41_gfmul_transaction.md R103): for every row, for
every block of the row, `GFMUL weight[row], block(row, blk)`. What the host does with the products is the host's. -/
def foldRequests (order : ByteOrder) : List (Elem × List (List Byte)) → List Instr
  | [] => []
  | (weight, row) :: rows => row.map (fun block => .gfmul weight (operandOfBlock order block)) ++ foldRequests order rows

end Sys2Proof.Machine
end

