-- ==== Sys2Proof/Machine/Flags.lean ====
section
/-! DEFINITION. Flags. "GF128MUL has none. No operation sets a zero, carry, overflow or error flag."
(spec/10_state.md R20). The two status bits a host can see are the handshake outputs (R21, R24), which are ports and
functions of the phase. -/

namespace Sys2Proof.Machine

/-- The two status bits of R21: `req_ready` and `rsp_valid`. -/
structure Handshake where
  reqReady : Bool
  rspValid : Bool
deriving DecidableEq, Repr

/-- What an observer of the handshake outputs sees in a cycle (R24, R100). -/
def State.handshake (s : State) : Handshake where
  reqReady := s.reqReady
  rspValid := s.rspValid

/-- A request beat transfers at the coming edge (R45). -/
def State.requestTransfers (s : State) : Bool := !s.ports.rst && s.ports.reqValid && s.reqReady

/-- A response beat transfers at the coming edge (R45). -/
def State.responseTransfers (s : State) : Bool := !s.ports.rst && s.rspValid && s.ports.rspReady

end Sys2Proof.Machine
end

