-- ==== Sys2Proof/Machine/Transaction.lean ====
section
/-! DEFINITION. The transaction-level machine (spec/41_gfmul_transaction.md R91 to R95), which the spec calls
normative: no `S.cnt`, no TICK, EXECUTE enabled whenever the phase is BUSY. It is a relation, since it leaves
`S.A` and `S.B` unspecified on entering IDLE and DONE (log 6), `S.P` on entering BUSY (log 17) and the time of EXECUTE
open. -/

namespace Sys2Proof.Machine

/-- `S` without `S.cnt` (R17, R27). -/
structure TState where
  phase : Phase
  opA : Elem
  opB : Elem
  prod : Option Elem
deriving DecidableEq, Repr

/-- The steps of R95 with what the host observes of each. -/
inductive TLabel where
  | issue (a b : Elem)
  | execute
  | retire (p : Elem)
  | hold
  | reset
deriving DecidableEq, Repr

/-- The step relation: ISSUE (R91), EXECUTE (R92), RETIRE (R93), HOLD (R94) and RESET (R120), and no other (R95). -/
inductive TStep : TState → TLabel → TState → Prop
  /-- R91: from IDLE, both operands latched from the one beat. DESIGN CHOICE (log 17): `S.P` afterwards is any option,
since R91 does not write it and R26 leaves it unspecified in BUSY. -/
  | issue (s : TState) (a b : Elem) (p : Option Elem) :
      s.phase = .idle → TStep s (.issue a b) ⟨.busy, a, b, p⟩
  /-- R92: from BUSY, the product; `S.A`, `S.B` unspecified afterwards (R25). -/
  | execute (s : TState) (x y : Elem) :
      s.phase = .busy → TStep s .execute ⟨.done, x, y, some (multiply s.opA s.opB)⟩
  /-- R93: from DONE, the response beat carries `S.P`. -/
  | retire (s : TState) (p x y : Elem) :
      s.phase = .done → s.prod = some p → TStep s (.retire p) ⟨.idle, x, y, none⟩
  /-- R94: waiting for the host, in IDLE or in DONE. The whole state stays, `S.A` and `S.B` too, which R25 leaves
unspecified there: the model's reading of R94 (log 6, DEDUCED). -/
  | hold (s : TState) : s.phase ≠ .busy → TStep s .hold s
  /-- R120: from any phase. -/
  | reset (s : TState) (x y : Elem) : TStep s .reset ⟨.idle, x, y, none⟩

/-- The transaction-level view of a state: `S.cnt` and the model's own fields dropped (R97, last paragraph). -/
def State.transactionView (s : State) : TState := ⟨s.phase, s.opA, s.opB, s.prod⟩

/-- The transaction-level step that an edge is, or `none` for a TICK, which exists only at the cycle level (R97). -/
def transactionLabel (s : State) : Option TLabel :=
  match stepName s with
  | .reset => some .reset
  | .issue => some (.issue s.ports.reqA s.ports.reqB)
  | .tick => none
  | .execute => some .execute
  | .retire => some (.retire s.rspP)
  | .hold => some .hold

end Sys2Proof.Machine
end

