-- ==== Sys2Proof/Safety.lean ====
section
/-! DEFINITION. What statements mean by a good state, a safe step, and by two states that a port observer cannot tell apart. -/

namespace Sys2Proof.Machine

/-- The block's own consistency: a result is held exactly in DONE (spec/10_state.md R26) and the count is in its range (R17). -/
def State.Consistent (latency : Nat) (s : State) : Prop :=
  (s.prod.isSome ↔ s.phase = .done) ∧ s.cnt < latency

/-- The responses given so far and the transaction held are the expected ones (spec/41_gfmul_transaction.md R101):
nothing pending in IDLE; in BUSY the operands latched are the pending request's; in DONE the result held is its product. -/
def State.Faithful (s : State) : Prop :=
  match s.phase with
  | .idle => pendingRequest s.trace = none ∧ responseTrace s.trace = expectedResponses s.trace
  | .busy => pendingRequest s.trace = some (s.opA, s.opB) ∧
      responseTrace s.trace ++ [multiply s.opA s.opB] = expectedResponses s.trace
  | .done => ∃ a b, pendingRequest s.trace = some (a, b) ∧ s.prod = some (multiply a b) ∧
      responseTrace s.trace ++ [multiply a b] = expectedResponses s.trace

/-- An outcome that goes on: no fault and no refusal (R95, R105). -/
def GoesOn (o : Host.Outcome State Fault Refusal) : Prop := ∃ t, o = .next t

/-- The handshake inputs of two edges agree; the operands may differ (R100). -/
def Ports.sameHandshake (p q : Ports) : Prop :=
  p.rst = q.rst ∧ p.reqValid = q.reqValid ∧ p.rspReady = q.rspReady

/-- Two states that differ at most in operands, results, unspecified values and what has been observed of them: the
phase, the count where BUSY reads it and the host's coming handshake inputs agree (R100). -/
def State.SameTiming (s t : State) : Prop :=
  s.phase = t.phase ∧ (s.phase = .busy → s.cnt = t.cnt) ∧ List.Forall₂ Ports.sameHandshake s.script t.script

/-- Two states that agree in all the spec fixes: the phase, the result held, in BUSY the operands and the count, what
has been observed, and the host's coming inputs. What R25 and R29 leave unspecified may differ (log 2). In IDLE
and in BUSY the model holds no result in any run from a reset, and compares what it holds (log 17). -/
def State.SameSpecified (s t : State) : Prop :=
  s.phase = t.phase ∧ s.prod = t.prod ∧ (s.phase = .busy → s.opA = t.opA ∧ s.opB = t.opB ∧ s.cnt = t.cnt) ∧
  s.trace = t.trace ∧ s.script = t.script

/-- Two outcomes that both go on, to states that agree in all the spec fixes. -/
def SameOutcome (o o' : Host.Outcome State Fault Refusal) : Prop :=
  ∃ t u, o = .next t ∧ o' = .next u ∧ t.SameSpecified u

/-- `s` with the values on the input ports at the coming edge replaced. -/
def State.withPorts (s : State) (p : Ports) : State := { s with script := p :: s.script.tail }

/-- No RESET in the first `n` edges from `s` of a block with the given LATENCY. -/
def NoReset (latency n : Nat) (s : State) : Prop :=
  ∀ k, k < n → (runEdges latency k s).ports.rst = false

/-- The edge from `s` accepts `{a, b}`, the `n`-th edge after it is the first to take a response, and none before that is
a RESET: one transaction on `a` and `b`, from its request beat to its response beat, under any host (R96, R101). -/
def OneTransaction (latency n : Nat) (a b : Elem) (s : State) : Prop :=
  stepName s = .issue ∧ s.ports.reqA = a ∧ s.ports.reqB = b ∧ NoReset latency n s ∧
  (∀ k, k < n → stepName (runEdges latency k s) ≠ .retire) ∧ stepName (runEdges latency n s) = .retire

end Sys2Proof.Machine
end

