-- ==== Sys2Proof/Certificates/Slice0/Obligations.lean ====
section
/-! DEFINITION. The statements for the provers. Each docstring names the rules of spec/ it formalises; "log n" is
notes/assumptions/n.md. -/

open Sys2Proof Sys2Proof.Machine

/-! ### Encoding -/

/-- R48: both operands are whole, bit for bit, and no bit of the word is ignored. -/
def Obligations.DecodeTakesEveryBitOfTheBeat : Prop :=
  (∀ w : RequestWord, ∃ a b : Elem, decode w = .gfmul a b ∧
    ∀ i, i < 128 → a.getLsbD i = w.getLsbD (128 + i) ∧ b.getLsbD i = w.getLsbD i) ∧
  (∀ v w : RequestWord, decode v = decode w → v = w) ∧
  (∀ i : Instr, decode (encode i) = i)

/-- Decode and encode agree on bytes, both ways. The byte layout is the model's choice (log 9); the 256 bits are R46's. -/
def Obligations.BytesDecodeAndEncodeAgree : Prop :=
  (∀ i : Instr, i.wellFormed = true → decodeBytes (encodeBytes i) = .ok i) ∧
  (∀ bytes : List Byte, bytes.length = requestBytes → ∃ i, decodeBytes bytes = .ok i ∧ encodeBytes i = bytes)

/-- The request words printed in spec/95_test_vectors.md section 6 decode to the operations they stand for. -/
def Obligations.PrintedRequestWordsDecode : Prop :=
  decode 0x0000000000000000000000000000000280000000000000000000000000000000#256 =
      .gfmul 0x00000000000000000000000000000002#128 0x80000000000000000000000000000000#128 ∧
  decode 0x0000000000000000000000000000000300000000000000000000000000000003#256 = .gfmul 3#128 3#128 ∧
  decode 0xf3f49249dc28ff90a5aec7978306d03be512148239292d22e255accb1a466884#256 =
      .gfmul 0xf3f49249dc28ff90a5aec7978306d03b#128 0xe512148239292d22e255accb1a466884#128 ∧
  decode 0#256 = .gfmul 0#128 0#128

/-- R51: a byte sequence that is not one whole beat is rejected by name. That bytes are decoded at all is the model's (log 9). -/
def Obligations.OtherLengthsAreNoBeat : Prop :=
  ∀ bytes : List Byte, bytes.length ≠ requestBytes →
    decodeBytes bytes = .error (.notARequestBeat bytes.length)

/-- The word offered by `withFetchWord` is the one the step decodes and runs (log 8), for every state, length and word. -/
def Obligations.FetchWordIsDecodedAndRun : Prop :=
  ∀ (s : State) (nbits w : Nat), nbits ≤ 256 →
    ∃ a b, decodeTableWord nbits w = some (.gfmul a b) ∧
      a = BitVec.ofNat 128 (w % 2 ^ nbits / 2 ^ 128) ∧ b = BitVec.ofNat 128 (w % 2 ^ nbits) ∧
      step (s.withFetchWord nbits w) = exec (.gfmul a b) (s.withFetchWord nbits w)

/-- R53: `GFSQR s` is the one request beat `{s, s}`, as an operation and in a script. -/
def Obligations.GfsqrIsOneGfmulBeat : Prop :=
  (∀ s : Elem, Instr.gfsqr s = .gfmul s s ∧ encode (.gfsqr s) = s ++ s) ∧
  (∀ (latency d : Nat) (x : ScriptArg) (h : HostVars) (s : State),
    runOp latency h s (.gfsqr d x) = runOp latency h s (.gfmul d x x)) ∧
  (∀ (d : Nat) (x : ScriptArg) (h : HostVars), evalOp h (.gfsqr d x) = evalOp h (.gfmul d x x))

/-! ### The field multiplication -/

/-- R41: every value is a field element, different values are different residues modulo `f(x)`, every residue has a
value, and no operand stops the operation. -/
def Obligations.ElementsAreTheResidues : Prop :=
  (∀ v : Elem, (poly v).degree < 128) ∧
  (∀ v w : Elem, poly v % fieldPoly = poly w % fieldPoly → v = w) ∧
  (∀ q : Polynomial (ZMod 2), ∃ v : Elem, poly v = q % fieldPoly) ∧
  (∀ (a b : Elem) (s : State), GoesOn (exec (.gfmul a b) s))

/-- R42: the constants, their values and the polynomials they stand for. -/
def Obligations.ConstantsAreTheirPolynomials : Prop :=
  poly elemZero = 0 ∧ poly elemOne = 1 ∧ poly elemX = Polynomial.X ∧ poly elemTop = Polynomial.X ^ 127 ∧
  poly rpoly = Polynomial.X ^ 7 + Polynomial.X ^ 2 + Polynomial.X + 1 ∧
  poly rpoly = Polynomial.X ^ 128 % fieldPoly ∧ poly fpoly = fieldPoly ∧
  elemZero.toNat = 0 ∧ elemOne.toNat = 1 ∧ elemX.toNat = 2 ∧ elemTop.toNat = 2 ^ 127 ∧
  rpoly.toNat = 0x87 ∧ fpoly.toNat = 2 ^ 128 + 135 ∧
  (∀ a : Elem, a ^^^ elemZero = a ∧ multiply a elemOne = a)

/-- R60: the three forms of the carry-less product: of polynomials, bit by bit, and as a masked sum of shifts. -/
def Obligations.ClmulIsThePolynomialProduct : Prop :=
  (∀ a b : Elem, poly (clmul a b) = poly a * poly b) ∧
  (∀ (a b : Elem) (k : Nat), k < 256 → ((clmul a b).getLsbD k = true ↔
    Odd ((Finset.range 128 ×ˢ Finset.range 128).filter fun ij =>
      ij.1 + ij.2 = k ∧ (a.getLsbD ij.1 && b.getLsbD ij.2) = true).card)) ∧
  (∀ (a b : Elem) (k : Nat), k < 256 → (clmul a b).getLsbD k = clmulBit a b k) ∧
  (∀ a b : Elem, clmul a b =
    (List.range 128).foldl (fun acc i => acc ^^^ (shiftedCopy a i &&& repBits 256 (b.getLsbD i))) 0) ∧
  clmul 3#128 3#128 = 5#256

/-- R61 (a) to (h). -/
def Obligations.ClmulFacts : Prop :=
  (∀ a b : Elem, (clmul a b).getLsbD 255 = false) ∧
  (∀ a b : Elem, a ≠ 0 → b ≠ 0 → clmul a b ≠ 0 ∧ degree (clmul a b) = degree a + degree b ∧ degree (clmul a b) ≤ 254) ∧
  (∀ a b : Elem, clmul a b = clmul b a) ∧
  (∀ a : Elem, clmul a 0 = 0) ∧
  (∀ a : Elem, clmul a 1 = a.setWidth 256) ∧
  (∀ (a : Elem) (k : Nat), k < 128 → clmul a (1#128 <<< k) = shiftedCopy a k) ∧
  (∀ a a' b : Elem, clmul (a ^^^ a') b = clmul a b ^^^ clmul a' b) ∧
  (∀ (a : Elem) (i : Nat), i < 128 →
    (clmul a a).getLsbD (2 * i) = a.getLsbD i ∧ (clmul a a).getLsbD (2 * i + 1) = false) ∧
  (∀ a b : Elem, (clmul a b).getLsbD 0 = (a.getLsbD 0 && b.getLsbD 0) ∧
    (clmul a b).getLsbD 254 = (a.getLsbD 127 && b.getLsbD 127))

/-- R62: the halves and how they make the product. -/
def Obligations.HalvesMakeTheProduct : Prop :=
  ∀ c : Product, c = hi c ++ lo c ∧ c = ((hi c).setWidth 256 <<< 128) ^^^ (lo c).setWidth 256 ∧
    ∀ i, i < 128 → (hi c).getLsbD i = c.getLsbD (128 + i) ∧ (lo c).getLsbD i = c.getLsbD i

/-- R63: `REDUCE` is the remainder on division by `f(x)`, on every 256-bit value, and what one pass does. -/
def Obligations.ReduceIsTheRemainder : Prop :=
  (∀ c : Product, poly (reduce c) = poly c % fieldPoly ∧ ∀ r : Elem, poly r = poly c % fieldPoly → r = reduce c) ∧
  (∀ c : Product, hi (reduceLoop 128 c) = 0) ∧
  (∀ (c : Product) (i : Nat), 128 ≤ i → i < 256 → c.getLsbD i = true →
    ∀ j, j < 256 → ((c ^^^ shiftedFpoly (i - 128)).getLsbD j ≠ c.getLsbD j ↔
      j = i ∨ j = i - 121 ∨ j = i - 126 ∨ j = i - 127 ∨ j = i - 128)) ∧
  (∀ c : Product, hi c = 0 → reduce c = lo c) ∧
  reduce (1#256 <<< 128) = 0x87#128 ∧ reduce (fpoly.setWidth 256) = 0 ∧
  reduce (1#256 <<< 254) = 0xc0000000000000000000000000001067#128

/-- R64: both foldings equal the long division on every 256-bit value, and the bits of the fold's carry. -/
def Obligations.FoldingEqualsDivision : Prop :=
  (∀ c : Product, reduceFold c = reduce c ∧ reduceFold2 c = reduce c) ∧
  (∀ h : Elem, (foldWide h >>> 128).setWidth 7 = foldCarry h ∧ (foldWide h >>> 128).toNat < 2 ^ 7) ∧
  (∀ t : BitVec 7, (foldTail t).toNat < 2 ^ 14) ∧
  (∀ h : Elem, (foldCarry h).getLsbD 6 = h.getLsbD 127 ∧ (foldCarry h).getLsbD 5 = h.getLsbD 126 ∧
    (foldCarry h).getLsbD 4 = h.getLsbD 125 ∧ (foldCarry h).getLsbD 3 = h.getLsbD 124 ∧
    (foldCarry h).getLsbD 2 = h.getLsbD 123 ∧ (foldCarry h).getLsbD 1 = (h.getLsbD 122 ^^ h.getLsbD 127) ∧
    (foldCarry h).getLsbD 0 = (h.getLsbD 121 ^^ h.getLsbD 126 ^^ h.getLsbD 127)) ∧
  (∀ a b : Elem, (hi (clmul a b)).getLsbD 127 = false ∧ (foldCarry (hi (clmul a b))).getLsbD 6 = false) ∧
  foldCarry (hi (1#256 <<< 254)) = 0x21#7 ∧ reduceFold (1#256 <<< 254) = 0xc0000000000000000000000000001067#128

/-- R65: `MULTIPLY` is the product of the field; its corner cases and its example. -/
def Obligations.MultiplyIsTheFieldProduct : Prop :=
  (∀ a b : Elem, multiply a b = reduce (clmul a b) ∧ poly (multiply a b) = poly a * poly b % fieldPoly) ∧
  (∀ a : Elem, multiply a elemZero = elemZero ∧ multiply elemZero a = elemZero ∧
    multiply a elemOne = a ∧ multiply elemOne a = a) ∧
  multiply 0x80000000000000000000000000000000#128 0x2#128 = 0x87#128

/-- R67: the carry-less product from four, and from three, 64-bit products. -/
def Obligations.NarrowProductsMakeClmul : Prop :=
  ∀ a b : Elem, clmulFour a b = clmul a b ∧ clmulThree a b = clmul a b

/-- R68, R69: the two serial stages, the second in 127 passes on a product and in 128 on any value. -/
def Obligations.SerialStagesAgree : Prop :=
  (∀ a b : Elem, clmulSerial a b = clmul a b) ∧ (∀ c : Product, reduceSerial c = reduce c) ∧
  (∀ a b : Elem, lo (reduceSerialLoop 127 (clmul a b)) = reduce (clmul a b))

/-- R70: the interleaved forms, with what the shifting operand holds. -/
def Obligations.InterleavedFormsAgree : Prop :=
  (∀ (a b : Elem) (n : Nat), (lsbFirstLoop a b n).2 = xtimes n a) ∧
  ∀ a b : Elem, multiplyLsbFirst a b = multiply a b ∧ multiplyMsbFirst a b = multiply a b

/-- R71, R66: every implementation gives the same value. -/
def Obligations.ImplementationsAgree : Prop :=
  ∀ a b : Elem,
    reduceFold (clmul a b) = reduce (clmul a b) ∧ reduceFold2 (clmul a b) = reduce (clmul a b) ∧
    reduceSerial (clmul a b) = reduce (clmul a b) ∧ clmulSerial a b = clmul a b ∧
    reduceSerial (clmulSerial a b) = reduce (clmul a b) ∧ multiplyLsbFirst a b = reduce (clmul a b) ∧
    multiplyMsbFirst a b = reduce (clmul a b) ∧ clmulFour a b = clmul a b ∧ clmulThree a b = clmul a b ∧
    ∀ impl : Impl, datapath impl a b = multiply a b

/-- R73. -/
def Obligations.MultiplyCommutes : Prop := ∀ a b : Elem, multiply a b = multiply b a

/-- R74, with its reason. -/
def Obligations.OneIsTheIdentity : Prop :=
  ∀ a : Elem, multiply a elemOne = a ∧ multiply elemOne a = a ∧ clmul a elemOne = a.setWidth 256 ∧ hi (clmul a elemOne) = 0

/-- R75, with its reason. -/
def Obligations.ZeroAbsorbs : Prop :=
  ∀ a : Elem, multiply a elemZero = elemZero ∧ multiply elemZero a = elemZero ∧ clmul a elemZero = 0

/-- R76, on both sides, and the linearity of `REDUCE` it rests on. -/
def Obligations.MultiplyDistributesOverXor : Prop :=
  (∀ a a' b : Elem, multiply (a ^^^ a') b = multiply a b ^^^ multiply a' b) ∧
  (∀ a b b' : Elem, multiply a (b ^^^ b') = multiply a b ^^^ multiply a b') ∧
  (∀ c c' : Product, reduce (c ^^^ c') = reduce c ^^^ reduce c')

/-- R77. -/
def Obligations.MultiplyIsAssociative : Prop :=
  ∀ a b c : Elem, multiply (multiply a b) c = multiply a (multiply b c)

/-- R78: multiplication by `x` and by its powers, and the table of powers. -/
def Obligations.MultiplyByPowersOfX : Prop :=
  (∀ a : Elem, multiply a elemX = xtime a) ∧
  (∀ (a : Elem) (k : Nat), k < 128 → multiply a (1#128 <<< k) = xtimes k a) ∧
  (∀ k, k < 128 → xtimes k elemOne = 1#128 <<< k) ∧ (∀ k, fieldPow elemX k = xtimes k elemOne) ∧
  xtimes 128 elemOne = 0x00000000000000000000000000000087#128 ∧
  xtimes 129 elemOne = 0x0000000000000000000000000000010e#128 ∧
  xtimes 130 elemOne = 0x0000000000000000000000000000021c#128 ∧
  xtimes 135 elemOne = 0x00000000000000000000000000004380#128 ∧
  xtimes 136 elemOne = 0x00000000000000000000000000008700#128 ∧
  xtimes 192 elemOne = 0x00000000000000870000000000000000#128 ∧
  xtimes 248 elemOne = 0x87000000000000000000000000000000#128 ∧
  xtimes 249 elemOne = 0x0e000000000000000000000000000087#128 ∧
  xtimes 250 elemOne = 0x1c00000000000000000000000000010e#128 ∧
  xtimes 253 elemOne = 0xe0000000000000000000000000000870#128 ∧
  xtimes 254 elemOne = 0xc0000000000000000000000000001067#128 ∧
  xtimes 255 elemOne = 0x80000000000000000000000000002049#128

/-- R79: squaring spreads the bits and is additive. -/
def Obligations.SquaringSpreadsAndAdds : Prop :=
  (∀ a : Elem, multiply a a = reduce (spread a)) ∧
  (∀ (a : Elem) (i : Nat), i < 128 → (spread a).getLsbD (2 * i) = a.getLsbD i ∧ (spread a).getLsbD (2 * i + 1) = false) ∧
  (∀ a b : Elem, multiply (a ^^^ b) (a ^^^ b) = multiply a a ^^^ multiply b b)

/-- R80, first sentence: no zero divisors, exactly one inverse, and the order of the group; with its example. -/
def Obligations.FieldHasUniqueInverses : Prop :=
  (∀ a b : Elem, multiply a b = elemZero → a = elemZero ∨ b = elemZero) ∧
  (∀ a : Elem, a ≠ elemZero → ∃! a' : Elem, multiply a a' = elemOne) ∧
  (∀ (a : Elem) (n : Nat), a ≠ elemZero → n + 1 = 2 ^ 128 → fieldPow a n = elemOne) ∧
  multiply elemX 0x80000000000000000000000000000043#128 = elemOne

/-- R80: the host's recipe is the power `2^128 - 2` and computes the inverse; written as a script it is 127 squarings and
126 multiplications, 253 transactions, and leaves the inverse in the host's variable 2. -/
def Obligations.InversionRecipeWorks : Prop :=
  (∀ (a : Elem) (k : Nat), squarings a k = fieldPow a (2 ^ k)) ∧
  (∀ (a : Elem) (n : Nat), n + 2 = 2 ^ 128 → inverse a = fieldPow a n) ∧
  (∀ a : Elem, a ≠ elemZero → multiply a (inverse a) = elemOne) ∧
  inversionScript.countP ScriptOp.isGfsqr = 127 ∧ inversionScript.countP ScriptOp.isGfmul = 126 ∧
  ∀ a : Elem, ∃ h, evalScript inversionScript ⟨[(0, a)], true⟩ = some h ∧ h.value (.var 2) = some (inverse a)

/-! ### The steps of the block -/

/-- An edge at which the host offers a beat runs the operation the beat decodes to, and nothing is around it (R38, R91). -/
def Obligations.StepRunsTheOfferedOperation : Prop :=
  ∀ s : State, s.ports.rst = false → s.ports.reqValid = true →
    decode (requestWord s.ports.reqA s.ports.reqB) = .gfmul s.ports.reqA s.ports.reqB ∧
    step s = exec (.gfmul s.ports.reqA s.ports.reqB) s

/-- The step, and runs of the machine, are the clocked edges of a block whose LATENCY is the open constant (R97, R8). -/
def Obligations.RunsAreClockEdges : Prop :=
  1 ≤ Config.latency ∧
  (∀ s : State, step s = .next (clockEdge Config.latency s)) ∧
  (∀ (n : Nat) (s : State), Host.Core.run core n s = .next (runEdges Config.latency n s))

/-- R91: ISSUE, at the step and as the meaning of `GFMUL`: from IDLE the operands are latched and the phase is BUSY; in BUSY
and DONE the block does not look at the operands. The count loaded is R97's. That `S.P` is kept, where R26 leaves it
unspecified in BUSY, is the model's choice (log 17). -/
def Obligations.GfmulIssuesFromIdle : Prop :=
  (∀ (a b : Elem) (s : State), s.phase = .idle →
    ∃ t, exec (.gfmul a b) s = .next t ∧ t.phase = .busy ∧ t.opA = a ∧ t.opB = b ∧ t.prod = s.prod ∧
      t.cnt = Config.latency - 1 ∧ t.trace = .issued a b :: s.trace ∧ t.script = s.script.tail ∧
      t.edge = s.edge + 1 ∧ t.reqReady = false ∧ t.rspValid = false) ∧
  (∀ s : State, s.ports.rst = false → s.ports.reqValid = true → s.phase = .idle →
    ∃ t, step s = .next t ∧ t.phase = .busy ∧ t.opA = s.ports.reqA ∧ t.opB = s.ports.reqB ∧
      t.trace = .issued s.ports.reqA s.ports.reqB :: s.trace ∧ t.reqReady = false) ∧
  (∀ s : State, s.phase ≠ .idle → ∀ a b a' b' : Elem, SameOutcome (exec (.gfmul a b) s) (exec (.gfmul a' b') s)) ∧
  (∀ (a b : Elem) (s : State), s.phase ≠ .idle → ∃ t, exec (.gfmul a b) s = .next t ∧
    requestTrace t.trace = requestTrace s.trace)

/-- R90: `GFMUL a, b` in IDLE goes on, and LATENCY edges later, if none of them is a RESET, its product is in `S.P` and on
`rsp_p`, `rsp_valid` having been 0 until then, whatever else the host does meanwhile. -/
def Obligations.GfmulDeliversTheProduct : Prop :=
  ∀ (a b : Elem) (s : State), s.phase = .idle →
    ∃ t, exec (.gfmul a b) s = .next t ∧ t.phase = .busy ∧ t.opA = a ∧ t.opB = b ∧
      (NoReset Config.latency Config.latency t →
        (∀ k, k < Config.latency → ∃ v, Host.Core.run core k t = .next v ∧ v.phase = .busy ∧ v.rspValid = false) ∧
        ∃ u, Host.Core.run core Config.latency t = .next u ∧ u.phase = .done ∧ u.prod = some (multiply a b) ∧
          u.rspValid = true ∧ u.rspP = multiply a b ∧ u.trace = t.trace)

/-- R90, R98: from IDLE, a host that offers `{a, b}`, does not reset for LATENCY edges and then takes the response has
exactly the product, and the block is in IDLE again; for every LATENCY. -/
def Obligations.TransactionCompletes : Prop :=
  ∀ (latency : Nat) (a b : Elem) (s : State) (offer take : Ports) (waits rest : List Ports), 1 ≤ latency →
    s.phase = .idle → s.script = offer :: (waits ++ take :: rest) →
    offer.rst = false → offer.reqValid = true → offer.reqA = a → offer.reqB = b →
    waits.length = latency → (∀ p ∈ waits, p.rst = false) → take.rst = false → take.rspReady = true →
    (runEdges latency (latency + 2) s).phase = .idle ∧ (runEdges latency (latency + 2) s).prod = none ∧
    (runEdges latency (latency + 2) s).script = rest ∧
    (runEdges latency (latency + 2) s).trace = .responded (multiply a b) :: .issued a b :: s.trace

/-- R92: EXECUTE, from BUSY at the edge that finds the count 0 (R27); it needs nothing from the host but `rst = 0`. -/
def Obligations.ExecuteHoldsTheProduct : Prop :=
  ∀ s : State, s.ports.rst = false → s.phase = .busy → s.cnt = 0 →
    ∃ t, step s = .next t ∧ t.phase = .done ∧ t.prod = some (multiply s.opA s.opB) ∧ t.cnt = s.cnt ∧ t.rspValid = true ∧
      t.reqReady = false ∧ t.rspP = multiply s.opA s.opB ∧ t.trace = s.trace ∧
      ∀ p : Ports, p.rst = false → SameOutcome (step (s.withPorts p)) (step s)

/-- R93: RETIRE, and that the result is held unchanged for as long as the host does not take it. -/
def Obligations.RetireTransfersTheHeldResult : Prop :=
  (∀ (s : State) (p : Elem), s.ports.rst = false → s.phase = .done → s.prod = some p → s.ports.rspReady = true →
    ∃ t, step s = .next t ∧ t.phase = .idle ∧ t.prod = none ∧ t.cnt = s.cnt ∧ t.trace = .responded p :: s.trace ∧
      t.rspValid = false ∧ t.reqReady = true) ∧
  (∀ (n : Nat) (s : State) (p : Elem), s.phase = .done → s.prod = some p →
    (∀ k, k < n → (runEdges Config.latency k s).ports.rst = false ∧ (runEdges Config.latency k s).ports.rspReady = false) →
    ∃ t, Host.Core.run core n s = .next t ∧ t.phase = .done ∧ t.prod = some p ∧ t.rspValid = true ∧ t.rspP = p ∧
      t.trace = s.trace)

/-- R94: HOLD changes nothing of the block, and the host's next input lifts it. That `S.A` and `S.B` stay at HOLD also in
IDLE and in DONE, where R25 leaves them unspecified, is the model's reading of R94 (log 6, DEDUCED); that `S.P` stays in
IDLE, where R26 leaves it unspecified, is the model's choice (log 17). -/
def Obligations.HoldKeepsTheBlock : Prop :=
  (∀ s : State, s.ports.rst = false →
    (s.phase = .idle ∧ s.ports.reqValid = false ∨ s.phase = .done ∧ s.ports.rspReady = false) →
    ∃ t, step s = .next t ∧ t.phase = s.phase ∧ t.opA = s.opA ∧ t.opB = s.opB ∧ t.prod = s.prod ∧ t.cnt = s.cnt ∧
      t.trace = s.trace ∧
      (∀ p : Ports, p.rst = false → p.reqValid = true → t.phase = .idle → stepName (t.withPorts p) = .issue) ∧
      (∀ p : Ports, p.rst = false → p.rspReady = true → t.phase = .done → stepName (t.withPorts p) = .retire)) ∧
  (∀ (n : Nat) (s : State), s.phase = .idle →
    (∀ k, k < n → (runEdges Config.latency k s).ports.rst = false ∧ (runEdges Config.latency k s).ports.reqValid = false) →
    ∃ t, Host.Core.run core n s = .next t ∧ t.phase = .idle ∧ t.prod = s.prod ∧ t.trace = s.trace)

/-- R97: every row of the table, with its guard, what it writes and what it leaves. Of what RESET, EXECUTE and RETIRE leave
unspecified (R25, R29) nothing is said. The two HOLD rows keep `S.A` and `S.B`, in IDLE and in DONE too: that R94 and the
table's "none" hold there against R25 is the model's reading (log 6, DEDUCED). That ISSUE and TICK, and HOLD in IDLE, keep
`S.P`, where R26 leaves it unspecified, is the model's choice (log 17). -/
def Obligations.StepFollowsTheTable : Prop :=
  ∀ s : State, ∃ t, step s = .next t ∧
    (s.ports.rst = true → t.phase = .idle ∧ t.prod = none ∧ t.trace = .reset :: s.trace) ∧
    (s.ports.rst = false → s.phase = .idle → s.ports.reqValid = true →
      t.phase = .busy ∧ t.opA = s.ports.reqA ∧ t.opB = s.ports.reqB ∧ t.cnt = Config.latency - 1 ∧ t.prod = s.prod ∧
      t.trace = .issued s.ports.reqA s.ports.reqB :: s.trace) ∧
    (s.ports.rst = false → s.phase = .idle → s.ports.reqValid = false →
      t.phase = .idle ∧ t.opA = s.opA ∧ t.opB = s.opB ∧ t.prod = s.prod ∧ t.cnt = s.cnt ∧ t.trace = s.trace) ∧
    (s.ports.rst = false → s.phase = .busy → 0 < s.cnt →
      t.phase = .busy ∧ t.opA = s.opA ∧ t.opB = s.opB ∧ t.prod = s.prod ∧ t.cnt = s.cnt - 1 ∧ t.trace = s.trace) ∧
    (s.ports.rst = false → s.phase = .busy → s.cnt = 0 →
      t.phase = .done ∧ t.prod = some (multiply s.opA s.opB) ∧ t.cnt = s.cnt ∧ t.trace = s.trace) ∧
    (s.ports.rst = false → s.phase = .done → s.ports.rspReady = true →
      t.phase = .idle ∧ t.prod = none ∧ t.cnt = s.cnt ∧ t.trace = .responded s.rspP :: s.trace) ∧
    (s.ports.rst = false → s.phase = .done → s.ports.rspReady = false →
      t.phase = .done ∧ t.opA = s.opA ∧ t.opB = s.opB ∧ t.prod = s.prod ∧ t.cnt = s.cnt ∧ t.trace = s.trace) ∧
    t.script = s.script.tail ∧ t.edge = s.edge + 1

/-- R98: the edges of a transaction whose ISSUE is at the edge from `s`, taken at the first edge `r` with `rsp_ready = 1`
after the result is offered; and the rate of a host that is always ready. For every LATENCY. -/
def Obligations.EdgeArithmetic : Prop :=
  ∀ latency : Nat, 1 ≤ latency →
  (∀ (s : State) (r : Nat), stepName s = .issue → latency + 1 ≤ r → NoReset latency (r + 1) s →
    (∀ k, latency + 1 ≤ k → k < r → (runEdges latency k s).ports.rspReady = false) →
    (runEdges latency r s).ports.rspReady = true →
    (∀ k, 1 ≤ k → k < latency → stepName (runEdges latency k s) = .tick) ∧
    stepName (runEdges latency latency s) = .execute ∧
    (∀ k, k ≤ latency → (runEdges latency k s).rspValid = false) ∧
    (∀ k, latency + 1 ≤ k → k ≤ r → (runEdges latency k s).rspValid = true) ∧
    (∀ k, latency + 1 ≤ k → k < r → stepName (runEdges latency k s) = .hold) ∧
    stepName (runEdges latency r s) = .retire ∧
    (∀ k, 1 ≤ k → k ≤ r → (runEdges latency k s).reqReady = false ∧ stepName (runEdges latency k s) ≠ .issue) ∧
    (runEdges latency (r + 1) s).reqReady = true) ∧
  (∀ (s : State) (n : Nat), s.phase = .idle →
    (∀ k, k ≤ n → (runEdges latency k s).ports.rst = false ∧ (runEdges latency k s).ports.reqValid = true ∧
      (runEdges latency k s).ports.rspReady = true) →
    ∀ k, k ≤ n → (stepName (runEdges latency k s) = .issue ↔ k % (latency + 2) = 0) ∧
      (stepName (runEdges latency k s) = .retire ↔ k % (latency + 2) = latency + 1))

/-- R99: which inputs each phase looks at, and the coincidence of a request with a response taken. -/
def Obligations.CoincidentInputs : Prop :=
  (∀ s : State, s.ports.rst = false → s.phase = .done → s.ports.reqValid = true → s.ports.rspReady = true →
    ∃ t, step s = .next t ∧ stepName s = .retire ∧ t.phase = .idle ∧ requestTrace t.trace = requestTrace s.trace ∧
      (t.ports.rst = false → t.ports.reqValid = true → stepName t = .issue)) ∧
  (∀ (s : State) (p q : Ports), s.phase = .busy → p.rst = false → q.rst = false →
    SameOutcome (step (s.withPorts p)) (step (s.withPorts q))) ∧
  (∀ (s : State) (p : Ports) (b : Bool), s.phase = .idle →
    SameOutcome (step (s.withPorts p)) (step (s.withPorts { p with rspReady := b }))) ∧
  (∀ (s : State) (p q : Ports), s.phase = .done → p.rst = q.rst → p.rspReady = q.rspReady →
    SameOutcome (step (s.withPorts p)) (step (s.withPorts q))) ∧
  (∀ (s : State) (p q : Ports), p.rst = true → q.rst = true →
    stepName (s.withPorts p) = .reset ∧ SameOutcome (step (s.withPorts p)) (step (s.withPorts q)) ∧
    ∃ t, step (s.withPorts p) = .next t ∧ t.phase = .idle ∧ t.prod = none ∧ t.trace = .reset :: s.trace) ∧
  (∀ (s : State) (p : Ports), ∃ t, step (s.withPorts p) = .next t)

/-- R108: `rst = 1` comes first: no request is accepted, no response transferred and no EXECUTE taken at that edge;
otherwise the phase alone says which of ISSUE, TICK or EXECUTE, RETIRE can be. -/
def Obligations.ResetHasPrecedence : Prop :=
  (∀ s : State, s.ports.rst = true → stepName s = .reset ∧ s.requestTransfers = false ∧ s.responseTransfers = false ∧
    ∃ t, step s = .next t ∧ t.phase = .idle ∧ t.prod = none ∧
      requestTrace t.trace = requestTrace s.trace ∧ responseTrace t.trace = responseTrace s.trace) ∧
  (∀ s : State, s.ports.rst = false → stepName s ≠ .reset ∧ (stepName s = .issue → s.phase = .idle) ∧
    (stepName s = .tick → s.phase = .busy ∧ s.cnt ≠ 0) ∧ (stepName s = .execute → s.phase = .busy ∧ s.cnt = 0) ∧
    (stepName s = .retire → s.phase = .done))

/-- R95: no fault, no refusal, no state stuck for good, and at most one beat transfers at an edge. -/
def Obligations.NoStateIsStuck : Prop :=
  (∀ s : State, GoesOn (step s)) ∧
  (∀ s : State, s.phase = .idle → ∃ p t, step (s.withPorts p) = .next t ∧ t.phase = .busy) ∧
  (∀ s : State, s.phase = .busy → NoReset Config.latency (s.cnt + 1) s →
    ∃ t, Host.Core.run core (s.cnt + 1) s = .next t ∧ t.phase = .done) ∧
  (∀ s : State, s.phase = .done → ∃ p t, step (s.withPorts p) = .next t ∧ t.phase = .idle) ∧
  (∀ s : State, ∃ p t, stepName (s.withPorts p) = .reset ∧ step (s.withPorts p) = .next t ∧ t.phase = .idle) ∧
  (∀ (s : State) (p q : Ports), ¬ (stepName (s.withPorts p) = .issue ∧ stepName (s.withPorts q) = .retire)) ∧
  (∀ s : State, ¬ (s.requestTransfers = true ∧ s.responseTransfers = true)) ∧
  (∀ s t : State, step s = .next t →
    (requestTrace t.trace).length + (responseTrace t.trace).length ≤
      (requestTrace s.trace).length + (responseTrace s.trace).length + 1)

/-- R105: no exception: no fault exists, every operation and every run goes on. -/
def Obligations.NothingEverStops : Prop :=
  (∀ _f : Fault, False) ∧ (∀ (i : Instr) (s : State), GoesOn (exec i s)) ∧
  (∀ (n : Nat) (s : State), ∃ t, Host.Core.run core n s = .next t)

/-- R24: the handshake outputs are those of the phase, and phases move only as listed. -/
def Obligations.PhasesMoveAsListed : Prop :=
  (∀ s : State, (s.phase = .idle → s.reqReady = true ∧ s.rspValid = false) ∧
    (s.phase = .busy → s.reqReady = false ∧ s.rspValid = false) ∧
    (s.phase = .done → s.reqReady = false ∧ s.rspValid = true)) ∧
  (∀ s t : State, step s = .next t → t.phase = s.phase ∨ (s.phase = .idle ∧ t.phase = .busy ∧ stepName s = .issue) ∨
    (s.phase = .busy ∧ t.phase = .done ∧ stepName s = .execute) ∨
    (s.phase = .done ∧ t.phase = .idle ∧ stepName s = .retire) ∨ (t.phase = .idle ∧ stepName s = .reset))

/-- R45: a beat transfers exactly when both sides are ready and `rst = 0`, and that is when the trace records it. -/
def Obligations.BeatsTransferOnHandshake : Prop :=
  ∀ s : State,
    (s.requestTransfers = true ↔ s.ports.rst = false ∧ s.ports.reqValid = true ∧ s.reqReady = true) ∧
    (s.responseTransfers = true ↔ s.ports.rst = false ∧ s.rspValid = true ∧ s.ports.rspReady = true) ∧
    ∃ t, step s = .next t ∧
      requestTrace t.trace = requestTrace s.trace ++
        (if s.requestTransfers then [(s.ports.reqA, s.ports.reqB)] else []) ∧
      responseTrace t.trace = responseTrace s.trace ++ (if s.responseTransfers then [s.rspP] else [])

/-! ### Reset -/

/-- R29: what `State.reset` holds of the values the spec gives; the registers it leaves unspecified are not spoken of (log 3). -/
def Obligations.ResetStateIsIdle : Prop :=
  State.reset.phase = .idle ∧ State.reset.prod = none ∧ State.reset.reqReady = true ∧ State.reset.rspValid = false

/-- R120: the RESET step, from any state whatever. -/
def Obligations.ResetStepGivesIdle : Prop :=
  ∀ s : State, s.ports.rst = true → ∃ t, step s = .next t ∧ t.phase = .idle ∧ t.prod = none ∧ t.cnt < Config.latency ∧
    t.reqReady = true ∧ t.rspValid = false ∧ t.trace = .reset :: s.trace ∧ t.Consistent Config.latency

/-- R121: `rst` held high over several edges leaves what one edge leaves, as far as the spec says what that is, and a
request offered at the first edge with `rst = 0` is accepted there. -/
def Obligations.HeldResetIsOneReset : Prop :=
  ∀ (n : Nat) (s : State), 1 ≤ n → (∀ k, k < n → (runEdges Config.latency k s).ports.rst = true) →
    ∃ t, Host.Core.run core n s = .next t ∧ t.phase = .idle ∧ t.prod = none ∧ t.reqReady = true ∧ t.rspValid = false ∧
      requestTrace t.trace = requestTrace s.trace ∧ responseTrace t.trace = responseTrace s.trace ∧
      (t.ports.rst = false → t.ports.reqValid = true → stepName t = .issue)

/-- R124: a reset discards the transaction in flight: no response for it, at that edge or later, even where the response
would have transferred at that very edge. -/
def Obligations.ResetDiscardsTheTransaction : Prop :=
  ∀ s : State, s.Faithful → s.phase ≠ .idle → s.ports.rst = true →
    ∃ t, step s = .next t ∧ t.phase = .idle ∧ t.prod = none ∧ pendingRequest t.trace = none ∧
      responseTrace t.trace = responseTrace s.trace ∧
      expectedResponses t.trace = (expectedResponses s.trace).dropLast ∧ t.Faithful

/-! ### Invariants -/

/-- R17, R26: every step keeps the block's own consistency. -/
def Obligations.StepKeepsConsistency : Prop :=
  ∀ s t : State, s.Consistent Config.latency → step s = .next t → t.Consistent Config.latency

/-- The state after reset is consistent. Its count is the model's choice, 0 (log 3). -/
def Obligations.ResetIsConsistent : Prop := State.reset.Consistent Config.latency

/-- R101, R35: every step keeps the responses faithful to the requests, resets included. -/
def Obligations.StepKeepsFaithfulness : Prop := ∀ s t : State, s.Faithful → step s = .next t → t.Faithful

/-- The state after reset is faithful: nothing has been asked and nothing answered (log 5). -/
def Obligations.ResetIsFaithful : Prop := State.reset.Faithful

/-! ### Runs -/

/-- R101: in a run that begins with a RESET step, from any contents, and has no other, the response trace is element by
element `MULTIPLY` of the request trace, one shorter exactly when the last transaction is not retired (never when the run
has ended); with later resets
it is the expected response trace, which each reset of a transaction in flight shortens. For every LATENCY. The traces are
read from the model's own field `trace`, empty where the run begins (log 5), and a run has ended by what is left of the
script (log 1; log 15 plays no part, the clause being about runs with no later reset). -/
def Obligations.ResponseTraceIsMultiplyOfRequestTrace : Prop :=
  ∀ (latency n : Nat) (s : State), 1 ≤ latency → s.trace = [] → s.ports.rst = true →
    (NoReset latency n (clockEdge latency s) →
      (responseTrace (runEdges latency (n + 1) s).trace =
        ((requestTrace (runEdges latency (n + 1) s).trace).take
          (responseTrace (runEdges latency (n + 1) s).trace).length).map fun ab => multiply ab.1 ab.2) ∧
      ((runEdges latency (n + 1) s).phase = .idle →
        (responseTrace (runEdges latency (n + 1) s).trace).length =
          (requestTrace (runEdges latency (n + 1) s).trace).length) ∧
      ((runEdges latency (n + 1) s).phase ≠ .idle →
        (responseTrace (runEdges latency (n + 1) s).trace).length + 1 =
          (requestTrace (runEdges latency (n + 1) s).trace).length) ∧
      ((runEdges latency (n + 1) s).ended = true → responseTrace (runEdges latency (n + 1) s).trace =
        (requestTrace (runEdges latency (n + 1) s).trace).map fun ab => multiply ab.1 ab.2)) ∧
    ((runEdges latency (n + 1) s).phase = .idle →
      responseTrace (runEdges latency (n + 1) s).trace = expectedResponses (runEdges latency (n + 1) s).trace) ∧
    ((runEdges latency (n + 1) s).phase ≠ .idle →
      ∃ p, responseTrace (runEdges latency (n + 1) s).trace ++ [p] = expectedResponses (runEdges latency (n + 1) s).trace)

/-- R16: the result of a transaction depends on its two operands and on nothing else: two transactions on the same operands
have the same result, whatever the states before them (their contents, the earlier transactions, the time since reset),
whatever LATENCY and datapath each block has, and whatever else the hosts do meanwhile and however long they wait before
they take it. `datapath` has one of the serial forms (log 16); ImplementationsAgree says that every other gives its value. -/
def Obligations.ResultDependsOnOperandsOnly : Prop :=
  ∀ (latency latency' n n' : Nat) (impl impl' : Impl) (a b : Elem) (s t : State), 1 ≤ latency → 1 ≤ latency' →
    OneTransaction latency n a b s → OneTransaction latency' n' a b t →
    (runEdges latency n s).rspP = (runEdges latency' n' t).rspP ∧
    (runEdges latency n s).rspP = datapath impl a b ∧ datapath impl a b = datapath impl' a b ∧
    (runEdges latency (n + 1) s).trace = .responded (datapath impl a b) :: .issued a b :: s.trace

/-- R100: two runs whose inputs differ at most in operand values show the same handshake at every edge, whatever the
unspecified values in each are. -/
def Obligations.HandshakeTimingHidesOperands : Prop :=
  ∀ (n : Nat) (s t : State), s.SameTiming t → n ≤ s.script.length →
    ∃ u v, Host.Core.run core n s = .next u ∧ Host.Core.run core n t = .next v ∧
      u.handshake = v.handshake ∧ u.SameTiming v ∧ (n < s.script.length → stepName u = stepName v)

/-- R97, last paragraph: every edge is a step of the transaction-level machine of R91 to R95, or a TICK, which that
machine does not see. A HOLD edge is its HOLD, which keeps `S.A` and `S.B` in IDLE and in DONE, where R25 leaves them
unspecified: the model's reading of R94 (log 6, DEDUCED). Its ISSUE leaves `S.P` open, the edge keeps it, and so do
TICK and HOLD (log 17). -/
def Obligations.EdgesRefineTransactionSteps : Prop :=
  ∀ s t : State, s.Consistent Config.latency → step s = .next t →
    (∃ l, transactionLabel s = some l ∧ TStep s.transactionView l t.transactionView) ∨
    (transactionLabel s = none ∧ s.phase = .busy ∧ t.transactionView = s.transactionView)

/-- R91 to R95: at the transaction level, which step can follow each phase. That HOLD is `t = s`, so keeps `S.A` and `S.B`
in IDLE and in DONE, where R25 leaves them unspecified, is the model's reading of R94 (log 6, DEDUCED). Of `S.P` after
ISSUE nothing is said, and HOLD in IDLE keeps it (log 17). -/
def Obligations.TransactionStepsByPhase : Prop :=
  (∀ (s t : TState) (l : TLabel), TStep s l t → s.phase = .idle →
    (∃ a b, l = .issue a b ∧ t.phase = .busy ∧ t.opA = a ∧ t.opB = b) ∨ (l = .hold ∧ t = s) ∨ (l = .reset ∧ t.phase = .idle)) ∧
  (∀ (s t : TState) (l : TLabel), TStep s l t → s.phase = .busy →
    (l = .execute ∧ t.phase = .done ∧ t.prod = some (multiply s.opA s.opB)) ∨ (l = .reset ∧ t.phase = .idle)) ∧
  (∀ (s t : TState) (l : TLabel), TStep s l t → s.phase = .done →
    (∃ p, l = .retire p ∧ s.prod = some p ∧ t.phase = .idle ∧ t.prod = none) ∨ (l = .hold ∧ t = s) ∨
      (l = .reset ∧ t.phase = .idle))

/-- R52: a script carried out on the block binds what the arithmetic of the field says, for every LATENCY, and leaves the
block in IDLE. How the host drives the ports for one transaction is the model's choice (log 10). -/
def Obligations.ScriptsMeanFieldArithmetic : Prop :=
  ∀ (latency : Nat) (ops : List ScriptOp) (h : HostVars) (s : State), 1 ≤ latency → s.phase = .idle →
    (runScript latency ops h s).map Prod.fst = evalScript ops h ∧
    ∀ h' s', runScript latency ops h s = some (h', s') → s'.phase = .idle ∧ s'.script = s.script

/-! ### The host's operands -/

/-- R31: where each byte of a block goes in either order, that nothing is lost, and that equal bytes make the order
irrelevant. -/
def Obligations.BlockBytesByOrder : Prop :=
  (∀ (block : List Byte) (k : Nat) (hk : k < block.length), block.length = 16 →
    (operandOfBlock .little block).extractLsb' (8 * k) 8 = block[k] ∧
    (operandOfBlock .big block).extractLsb' (120 - 8 * k) 8 = block[k]) ∧
  (∀ (order : ByteOrder) (block : List Byte), block.length = 16 → blockOfOperand order (operandOfBlock order block) = block) ∧
  (∀ (order : ByteOrder) (v : Elem), operandOfBlock order (blockOfOperand order v) = v) ∧
  (∀ x : Byte, operandOfBlock .little (List.replicate 16 x) = operandOfBlock .big (List.replicate 16 x))

/-- R103: the fold asks for one `GFMUL weight, block` for each block of each row, in order, and nothing else. -/
def Obligations.FoldAsksOneGfmulPerBlock : Prop :=
  ∀ (order : ByteOrder) (rows : List (Elem × List (List Byte))),
    foldRequests order rows =
      (rows.map fun row => row.2.map fun block => Instr.gfmul row.1 (operandOfBlock order block)).flatten ∧
    (foldRequests order rows).length = (rows.map fun row => row.2.length).sum ∧
    ∀ i : Instr, i ∈ foldRequests order rows ↔
      ∃ row ∈ rows, ∃ block ∈ row.2, i = .gfmul row.1 (operandOfBlock order block)

/-- R52, R16: one transaction as the model's host carries it out in a script, `transact`, gives the datapath's value, the
same from any two states in IDLE and for any two LATENCYs, and leaves the block in IDLE with the inputs that were to come.
At which edges that host drives what is the model's choice (log 10); ResultDependsOnOperandsOnly speaks of any host. -/
def Obligations.HostTransactionGivesProduct : Prop :=
  ∀ (latency latency' : Nat) (impl : Impl) (a b : Elem) (s t : State), 1 ≤ latency → 1 ≤ latency' →
    s.phase = .idle → t.phase = .idle →
    (transact latency a b s).1 = some (datapath impl a b) ∧
    (transact latency a b s).1 = (transact latency' a b t).1 ∧
    (transact latency a b s).2.phase = .idle ∧ (transact latency a b s).2.script = s.script
end

