-- ==== Sys2Proof/Laws/Decode.lean ====
section
/-! SUPPORT. The two fields of a request word, and the byte numbering. -/

namespace Sys2Proof

/-- Bit `i` of a request word: `b` below bit 128, `a` from there on (R46). -/
theorem getLsbD_requestWord (a b : Elem) (i : Nat) :
    (requestWord a b).getLsbD i = if i < 128 then b.getLsbD i else a.getLsbD (i - 128) :=
  BitVec.getLsbD_append (x := a) (y := b) (i := i)

@[simp] theorem fieldA_requestWord (a b : Elem) : fieldA (requestWord a b) = a := by
  apply BitVec.eq_of_getLsbD_eq
  intro i hi
  simp [fieldA, getLsbD_requestWord, hi]

@[simp] theorem fieldB_requestWord (a b : Elem) : fieldB (requestWord a b) = b := by
  apply BitVec.eq_of_getLsbD_eq
  intro i hi
  simp [fieldB, getLsbD_requestWord, hi]

/-- The number of the low `n` bytes of `w` is `w` modulo `256^n`. -/
theorem natOfBytes_bytesOfNat (n w : Nat) : natOfBytes (bytesOfNat n w) = w % 256 ^ n := by
  induction n generalizing w with
  | zero => simp [natOfBytes, bytesOfNat, Nat.mod_one]
  | succ n ih => simp [natOfBytes, bytesOfNat, ih, Nat.pow_succ, Nat.mul_comm _ 256, Nat.mod_mul]

/-- The bytes of the number of a byte sequence are the sequence. -/
theorem bytesOfNat_natOfBytes (bytes : List Byte) : bytesOfNat bytes.length (natOfBytes bytes) = bytes := by
  induction bytes with
  | nil => rfl
  | cons b bs ih =>
    have hb := b.isLt
    have hdiv : (b.toNat + 256 * natOfBytes bs) / 256 = natOfBytes bs := by omega
    have hmod : BitVec.ofNat 8 (b.toNat + 256 * natOfBytes bs) = b := by
      apply BitVec.eq_of_toNat_eq
      simp [BitVec.toNat_ofNat]
      omega
    simp [natOfBytes, bytesOfNat, hdiv, hmod, ih]

end Sys2Proof
end

