-- ==== Sys2Proof/Laws/State.lean ====
section
/-! SUPPORT. One lemma per field per step, so that no later proof unfolds a record update. -/

namespace Sys2Proof.Machine

@[simp] theorem resetEdge_phase (latency : Nat) (s : State) : (resetEdge latency s).phase = .idle := rfl
@[simp] theorem resetEdge_opA (latency : Nat) (s : State) : (resetEdge latency s).opA = Config.freeOpA s.edge := rfl
@[simp] theorem resetEdge_opB (latency : Nat) (s : State) : (resetEdge latency s).opB = Config.freeOpB s.edge := rfl
@[simp] theorem resetEdge_prod (latency : Nat) (s : State) : (resetEdge latency s).prod = none := rfl
@[simp] theorem resetEdge_cnt (latency : Nat) (s : State) : (resetEdge latency s).cnt = Config.freeCnt s.edge % latency := rfl
@[simp] theorem resetEdge_script (latency : Nat) (s : State) : (resetEdge latency s).script = s.script.tail := rfl
@[simp] theorem resetEdge_edge (latency : Nat) (s : State) : (resetEdge latency s).edge = s.edge + 1 := rfl
@[simp] theorem resetEdge_trace (latency : Nat) (s : State) : (resetEdge latency s).trace = .reset :: s.trace := rfl

@[simp] theorem issueEdge_phase (latency : Nat) (a b : Elem) (s : State) : (issueEdge latency a b s).phase = .busy := rfl
@[simp] theorem issueEdge_opA (latency : Nat) (a b : Elem) (s : State) : (issueEdge latency a b s).opA = a := rfl
@[simp] theorem issueEdge_opB (latency : Nat) (a b : Elem) (s : State) : (issueEdge latency a b s).opB = b := rfl
@[simp] theorem issueEdge_prod (latency : Nat) (a b : Elem) (s : State) : (issueEdge latency a b s).prod = s.prod := rfl
@[simp] theorem issueEdge_cnt (latency : Nat) (a b : Elem) (s : State) : (issueEdge latency a b s).cnt = latency - 1 := rfl
@[simp] theorem issueEdge_script (latency : Nat) (a b : Elem) (s : State) : (issueEdge latency a b s).script = s.script.tail := rfl
@[simp] theorem issueEdge_edge (latency : Nat) (a b : Elem) (s : State) : (issueEdge latency a b s).edge = s.edge + 1 := rfl
@[simp] theorem issueEdge_trace (latency : Nat) (a b : Elem) (s : State) : (issueEdge latency a b s).trace = .issued a b :: s.trace := rfl

@[simp] theorem countEdge_phase (s : State) : (countEdge s).phase = s.phase := rfl
@[simp] theorem countEdge_opA (s : State) : (countEdge s).opA = s.opA := rfl
@[simp] theorem countEdge_opB (s : State) : (countEdge s).opB = s.opB := rfl
@[simp] theorem countEdge_prod (s : State) : (countEdge s).prod = s.prod := rfl
@[simp] theorem countEdge_cnt (s : State) : (countEdge s).cnt = s.cnt - 1 := rfl
@[simp] theorem countEdge_script (s : State) : (countEdge s).script = s.script.tail := rfl
@[simp] theorem countEdge_edge (s : State) : (countEdge s).edge = s.edge + 1 := rfl
@[simp] theorem countEdge_trace (s : State) : (countEdge s).trace = s.trace := rfl

@[simp] theorem executeEdge_phase (s : State) : (executeEdge s).phase = .done := rfl
@[simp] theorem executeEdge_opA (s : State) : (executeEdge s).opA = Config.freeOpA s.edge := rfl
@[simp] theorem executeEdge_opB (s : State) : (executeEdge s).opB = Config.freeOpB s.edge := rfl
@[simp] theorem executeEdge_prod (s : State) : (executeEdge s).prod = some (multiply s.opA s.opB) := rfl
@[simp] theorem executeEdge_cnt (s : State) : (executeEdge s).cnt = s.cnt := rfl
@[simp] theorem executeEdge_script (s : State) : (executeEdge s).script = s.script.tail := rfl
@[simp] theorem executeEdge_edge (s : State) : (executeEdge s).edge = s.edge + 1 := rfl
@[simp] theorem executeEdge_trace (s : State) : (executeEdge s).trace = s.trace := rfl

@[simp] theorem retireEdge_phase (s : State) : (retireEdge s).phase = .idle := rfl
@[simp] theorem retireEdge_opA (s : State) : (retireEdge s).opA = Config.freeOpA s.edge := rfl
@[simp] theorem retireEdge_opB (s : State) : (retireEdge s).opB = Config.freeOpB s.edge := rfl
@[simp] theorem retireEdge_prod (s : State) : (retireEdge s).prod = none := rfl
@[simp] theorem retireEdge_cnt (s : State) : (retireEdge s).cnt = s.cnt := rfl
@[simp] theorem retireEdge_script (s : State) : (retireEdge s).script = s.script.tail := rfl
@[simp] theorem retireEdge_edge (s : State) : (retireEdge s).edge = s.edge + 1 := rfl
@[simp] theorem retireEdge_trace (s : State) : (retireEdge s).trace = .responded s.rspP :: s.trace := rfl

@[simp] theorem holdEdge_phase (s : State) : (holdEdge s).phase = s.phase := rfl
@[simp] theorem holdEdge_opA (s : State) : (holdEdge s).opA = s.opA := rfl
@[simp] theorem holdEdge_opB (s : State) : (holdEdge s).opB = s.opB := rfl
@[simp] theorem holdEdge_prod (s : State) : (holdEdge s).prod = s.prod := rfl
@[simp] theorem holdEdge_cnt (s : State) : (holdEdge s).cnt = s.cnt := rfl
@[simp] theorem holdEdge_script (s : State) : (holdEdge s).script = s.script.tail := rfl
@[simp] theorem holdEdge_edge (s : State) : (holdEdge s).edge = s.edge + 1 := rfl
@[simp] theorem holdEdge_trace (s : State) : (holdEdge s).trace = s.trace := rfl

/-! The state a program's first operation is offered in. -/

@[simp] theorem withFetchWord_phase (s : State) (nbits w : Nat) : (s.withFetchWord nbits w).phase = .idle := rfl
@[simp] theorem withFetchWord_opA (s : State) (nbits w : Nat) : (s.withFetchWord nbits w).opA = s.opA := rfl
@[simp] theorem withFetchWord_opB (s : State) (nbits w : Nat) : (s.withFetchWord nbits w).opB = s.opB := rfl
@[simp] theorem withFetchWord_prod (s : State) (nbits w : Nat) : (s.withFetchWord nbits w).prod = none := rfl
@[simp] theorem withFetchWord_cnt (s : State) (nbits w : Nat) : (s.withFetchWord nbits w).cnt = s.cnt := rfl
@[simp] theorem withFetchWord_edge (s : State) (nbits w : Nat) : (s.withFetchWord nbits w).edge = s.edge := rfl
@[simp] theorem withFetchWord_trace (s : State) (nbits w : Nat) : (s.withFetchWord nbits w).trace = s.trace := rfl
@[simp] theorem withFetchWord_ports (s : State) (nbits w : Nat) :
    (s.withFetchWord nbits w).ports = offerPorts (BitVec.ofNat 256 (w % 2 ^ nbits)) := rfl

/-! The ports are the head of the script, and the host's free choice past its end. -/

theorem ports_of_script_cons {s : State} {p : Ports} {rest : List Ports} (h : s.script = p :: rest) : s.ports = p := by
  simp [State.ports, h]

theorem ports_of_script_nil {s : State} (h : s.script = []) : s.ports = hostPorts s.edge := by
  simp [State.ports, h]

end Sys2Proof.Machine
end

