-- ==== Sys2Proof/Laws/Trace.lean ====
section
/-! SUPPORT. The observations of a run, one lemma per event, so that no later proof unfolds them. -/

namespace Sys2Proof.Machine

@[simp] theorem requestTrace_nil : requestTrace [] = [] := rfl
@[simp] theorem requestTrace_issued (a b : Elem) (es : List Event) :
    requestTrace (.issued a b :: es) = requestTrace es ++ [(a, b)] := rfl
@[simp] theorem requestTrace_responded (p : Elem) (es : List Event) :
    requestTrace (.responded p :: es) = requestTrace es := rfl
@[simp] theorem requestTrace_reset (es : List Event) : requestTrace (.reset :: es) = requestTrace es := rfl

@[simp] theorem responseTrace_nil : responseTrace [] = [] := rfl
@[simp] theorem responseTrace_issued (a b : Elem) (es : List Event) :
    responseTrace (.issued a b :: es) = responseTrace es := rfl
@[simp] theorem responseTrace_responded (p : Elem) (es : List Event) :
    responseTrace (.responded p :: es) = responseTrace es ++ [p] := rfl
@[simp] theorem responseTrace_reset (es : List Event) : responseTrace (.reset :: es) = responseTrace es := rfl

@[simp] theorem pendingRequest_nil : pendingRequest [] = none := rfl
@[simp] theorem pendingRequest_issued (a b : Elem) (es : List Event) :
    pendingRequest (.issued a b :: es) = some (a, b) := rfl
@[simp] theorem pendingRequest_responded (p : Elem) (es : List Event) :
    pendingRequest (.responded p :: es) = none := rfl
@[simp] theorem pendingRequest_reset (es : List Event) : pendingRequest (.reset :: es) = none := rfl

@[simp] theorem expectedResponses_nil : expectedResponses [] = [] := rfl
@[simp] theorem expectedResponses_issued (a b : Elem) (es : List Event) :
    expectedResponses (.issued a b :: es) = expectedResponses es ++ [multiply a b] := rfl
@[simp] theorem expectedResponses_responded (p : Elem) (es : List Event) :
    expectedResponses (.responded p :: es) = expectedResponses es := rfl

/-- A reset takes the pending transaction's response out of the expected ones. -/
theorem expectedResponses_reset_of_pending {es : List Event} {ab : Elem × Elem} (h : pendingRequest es = some ab) :
    expectedResponses (.reset :: es) = (expectedResponses es).dropLast := by
  rw [expectedResponses, h]

/-- A reset with nothing pending changes no expectation. -/
theorem expectedResponses_reset_of_none {es : List Event} (h : pendingRequest es = none) :
    expectedResponses (.reset :: es) = expectedResponses es := by
  rw [expectedResponses, h]

@[simp] theorem lastResponse_nil : lastResponse [] = none := rfl
@[simp] theorem lastResponse_issued (a b : Elem) (es : List Event) :
    lastResponse (.issued a b :: es) = lastResponse es := rfl
@[simp] theorem lastResponse_responded (p : Elem) (es : List Event) :
    lastResponse (.responded p :: es) = some p := rfl
@[simp] theorem lastResponse_reset (es : List Event) : lastResponse (.reset :: es) = lastResponse es := rfl

end Sys2Proof.Machine
end

