-- ==== Sys2Proof/Laws/Ops.lean ====
section
/-! SUPPORT. What each shared operation can do, once: the ports by phase, the rows of the edge, the meaning of `GFMUL`
and the step. Later proofs cite these and unfold nothing. -/

namespace Sys2Proof.Machine

/-! ### Ports -/

@[simp] theorem reqReady_eq_true_iff (s : State) : s.reqReady = true ↔ s.phase = .idle := by
  cases s with | mk phase => cases phase <;> simp [State.reqReady]

@[simp] theorem rspValid_eq_true_iff (s : State) : s.rspValid = true ↔ s.phase = .done := by
  cases s with | mk phase => cases phase <;> simp [State.rspValid]

theorem rspP_of_done {s : State} {p : Elem} (hd : s.phase = .done) (hp : s.prod = some p) : s.rspP = p := by
  simp [State.rspP, hd, hp]

theorem rspP_of_not_done {s : State} (hd : s.phase ≠ .done) : s.rspP = Config.freeRspP s.edge := by
  unfold State.rspP
  split
  · contradiction
  · rfl

/-! ### A state with the coming edge's inputs replaced -/

@[simp] theorem withPorts_ports (s : State) (p : Ports) : (s.withPorts p).ports = p := rfl
@[simp] theorem withPorts_phase (s : State) (p : Ports) : (s.withPorts p).phase = s.phase := rfl
@[simp] theorem withPorts_opA (s : State) (p : Ports) : (s.withPorts p).opA = s.opA := rfl
@[simp] theorem withPorts_opB (s : State) (p : Ports) : (s.withPorts p).opB = s.opB := rfl
@[simp] theorem withPorts_prod (s : State) (p : Ports) : (s.withPorts p).prod = s.prod := rfl
@[simp] theorem withPorts_cnt (s : State) (p : Ports) : (s.withPorts p).cnt = s.cnt := rfl
@[simp] theorem withPorts_script (s : State) (p : Ports) : (s.withPorts p).script = p :: s.script.tail := rfl
@[simp] theorem withPorts_edge (s : State) (p : Ports) : (s.withPorts p).edge = s.edge := rfl
@[simp] theorem withPorts_trace (s : State) (p : Ports) : (s.withPorts p).trace = s.trace := rfl

/-! ### States that agree in all the spec fixes -/

theorem sameSpecified_refl (s : State) : s.SameSpecified s := ⟨rfl, rfl, fun _ => ⟨rfl, rfl, rfl⟩, rfl, rfl⟩

theorem sameOutcome_of_next_eq {o o' : Host.Outcome State Fault Refusal} {t : State} (h : o = .next t) (h' : o' = .next t) :
    SameOutcome o o' := ⟨t, t, h, h', sameSpecified_refl t⟩

/-! ### Which row applies -/

theorem stepName_of_rst {s : State} (h : s.ports.rst = true) : stepName s = .reset := by simp [stepName, h]

theorem stepName_of_idle {s : State} (h : s.ports.rst = false) (hi : s.phase = .idle) :
    stepName s = if s.ports.reqValid then .issue else .hold := by simp [stepName, h, hi]

theorem stepName_of_busy {s : State} (h : s.ports.rst = false) (hb : s.phase = .busy) :
    stepName s = if s.cnt = 0 then .execute else .tick := by simp [stepName, h, hb]

theorem stepName_of_done {s : State} (h : s.ports.rst = false) (hd : s.phase = .done) :
    stepName s = if s.ports.rspReady then .retire else .hold := by simp [stepName, h, hd]

/-! ### What an edge can do -/

/-- Everything one edge can do, with the guard of each row. -/
theorem clockEdge_cases (latency : Nat) (s : State) :
    (s.ports.rst = true ∧ clockEdge latency s = resetEdge latency s) ∨
    (s.ports.rst = false ∧ s.phase = .idle ∧ s.ports.reqValid = true ∧
      clockEdge latency s = issueEdge latency s.ports.reqA s.ports.reqB s) ∨
    (s.ports.rst = false ∧ s.phase = .idle ∧ s.ports.reqValid = false ∧ clockEdge latency s = holdEdge s) ∨
    (s.ports.rst = false ∧ s.phase = .busy ∧ s.cnt ≠ 0 ∧ clockEdge latency s = countEdge s) ∨
    (s.ports.rst = false ∧ s.phase = .busy ∧ s.cnt = 0 ∧ clockEdge latency s = executeEdge s) ∨
    (s.ports.rst = false ∧ s.phase = .done ∧ s.ports.rspReady = true ∧ clockEdge latency s = retireEdge s) ∨
    (s.ports.rst = false ∧ s.phase = .done ∧ s.ports.rspReady = false ∧ clockEdge latency s = holdEdge s) := by
  cases hr : s.ports.rst with
  | true => simp [clockEdge, stepName_of_rst hr]
  | false =>
    cases hp : s.phase with
    | idle => cases hv : s.ports.reqValid <;> simp [clockEdge, stepName_of_idle hr hp, hv]
    | busy => by_cases hc : s.cnt = 0 <;> simp [clockEdge, stepName_of_busy hr hp, hc]
    | done => cases hv : s.ports.rspReady <;> simp [clockEdge, stepName_of_done hr hp, hv]

/-- An edge with `rst = 0` and no request beat offered is the block's own row. -/
theorem clockEdge_of_no_request (latency : Nat) {s : State} (hr : s.ports.rst = false) (hv : s.ports.reqValid = false) :
    clockEdge latency s = waitEdge s := by
  cases hp : s.phase with
  | idle => simp [clockEdge, stepName_of_idle hr hp, hv, waitEdge, hp]
  | busy => by_cases hc : s.cnt = 0 <;> simp [clockEdge, stepName_of_busy hr hp, hc, waitEdge, hp]
  | done => cases hy : s.ports.rspReady <;> simp [clockEdge, stepName_of_done hr hp, hy, waitEdge, hp]

/-- An edge with `rst = 0` and a request beat offered is `requestEdge` of its operands. -/
theorem clockEdge_of_request (latency : Nat) {s : State} (hr : s.ports.rst = false) (hv : s.ports.reqValid = true) :
    clockEdge latency s = requestEdge latency s.ports.reqA s.ports.reqB s := by
  cases hp : s.phase with
  | idle => simp [clockEdge, stepName_of_idle hr hp, hv, requestEdge, hp]
  | busy => by_cases hc : s.cnt = 0 <;> simp [clockEdge, stepName_of_busy hr hp, hc, requestEdge, waitEdge, hp]
  | done => cases hy : s.ports.rspReady <;> simp [clockEdge, stepName_of_done hr hp, hy, requestEdge, waitEdge, hp]

@[simp] theorem clockEdge_script (latency : Nat) (s : State) : (clockEdge latency s).script = s.script.tail := by
  unfold clockEdge
  split <;> simp

@[simp] theorem clockEdge_edge (latency : Nat) (s : State) : (clockEdge latency s).edge = s.edge + 1 := by
  unfold clockEdge
  split <;> simp

/-! ### Runs -/

@[simp] theorem runEdges_zero (latency : Nat) (s : State) : runEdges latency 0 s = s := rfl

theorem runEdges_succ (latency n : Nat) (s : State) :
    runEdges latency (n + 1) s = runEdges latency n (clockEdge latency s) := rfl

theorem runEdges_add (latency m n : Nat) (s : State) :
    runEdges latency (m + n) s = runEdges latency n (runEdges latency m s) := by
  induction m generalizing s with
  | zero => simp
  | succ m ih => rw [Nat.succ_add, runEdges_succ, runEdges_succ, ih]

theorem runEdges_succ_last (latency n : Nat) (s : State) :
    runEdges latency (n + 1) s = clockEdge latency (runEdges latency n s) := runEdges_add latency n 1 s

theorem runEdges_script (latency n : Nat) (s : State) : (runEdges latency n s).script = s.script.drop n := by
  induction n generalizing s with
  | zero => rfl
  | succ n ih => rw [runEdges_succ, ih, clockEdge_script, List.drop_tail]

theorem runEdges_edge (latency n : Nat) (s : State) : (runEdges latency n s).edge = s.edge + n := by
  induction n generalizing s with
  | zero => rfl
  | succ n ih => rw [runEdges_succ, ih, clockEdge_edge]; omega

@[simp] theorem core_run_zero (s : State) : Host.Core.run core 0 s = .next s := rfl

/-- A run of one step more, when the step answers a next state, is the run from that state. -/
theorem core_run_succ_of_next {n : Nat} {s t : State} (h : step s = .next t) :
    Host.Core.run core (n + 1) s = Host.Core.run core n t := by
  have h' : core.step s = .next t := h
  simp only [Host.Core.run, h']

/-! ### The meaning of `GFMUL` -/

/-- What `GFMUL` can do: accepted in IDLE, otherwise the block's own row. -/
theorem exec_gfmul_cases (a b : Elem) (s : State) :
    (s.phase = .idle ∧ exec (.gfmul a b) s = .next (issueEdge Config.latency a b s)) ∨
    (s.phase ≠ .idle ∧ exec (.gfmul a b) s = .next (waitEdge s)) := by
  cases hp : s.phase <;> simp [exec, execGfmul, requestEdge, hp]

end Sys2Proof.Machine
end

