-- ==== Sys2Proof/Laws/PerInstr.lean ====
section
/-! SUPPORT. Statements made once per instruction, one lemma per constructor. -/

namespace Sys2Proof.Laws

/-- The byte form of an operation's request beat is one whole beat: 32 bytes (spec/30_encoding.md R51). -/
def BeatLength.Statement (i : Instr) : Prop := (encodeBytes i).length = requestBytes

/-- `bytesOfNat n` gives `n` bytes. -/
theorem bytesOfNat_length (n w : Nat) : (bytesOfNat n w).length = n := by
  induction n generalizing w with
  | zero => rfl
  | succ n ih => simp [bytesOfNat, ih]

theorem BeatLength.gfmul (a b : Elem) : BeatLength.Statement (.gfmul a b) :=
  bytesOfNat_length requestBytes _

end Sys2Proof.Laws
end

