-- ==== Sys2Proof/Tests/Slice0.lean ====
section
/-! SUPPORT. Tests. Expected values are those printed in spec/95_test_vectors.md (V, W, T, P name its rows) or, for the
encodings, written out from spec/30_encoding.md R46. The `witness_` theorems show that the hypotheses of the statement of
that name can be met. -/

namespace Sys2Proof.Tests

open Sys2Proof.Machine

/-! ### States to test on -/

/-- The state after reset, with the host's coming inputs given. -/
def idleAt (script : List Ports) : State := { State.reset with script := script }

/-- A transaction `{a, b}` accepted, `cnt` edges to spend. -/
def busyAt (a b : Elem) (cnt : Nat) (script : List Ports) : State :=
  { State.reset with phase := .busy, opA := a, opB := b, cnt := cnt, script := script, trace := [.issued a b] }

/-- The result of `{a, b}` offered to the host. -/
def doneAt (a b : Elem) (script : List Ports) : State :=
  { State.reset with phase := .done, prod := some (multiply a b), script := script, trace := [.issued a b] }

/-- Inputs: nothing asserted, a response taken with another request offered, and a reset with everything asserted. -/
def quiet : Ports := waitBeat 0 0
def takeAndOffer : Ports := { rst := false, reqValid := true, reqA := 3, reqB := 3, rspReady := true }
def resetAndAll : Ports := { takeAndOffer with rst := true }

/-- No port sample of the script's first `n` is a reset, and there are `n`: then none of the first `n` edges is. -/
theorem noReset_of_script (latency n : Nat) (s : State) (hlen : n ≤ s.script.length)
    (h : ∀ p ∈ s.script, p.rst = false) : NoReset latency n s := by
  intro k hk
  have hk' : k < s.script.length := by omega
  rw [ports_of_script_cons (by rw [runEdges_script, List.drop_eq_getElem_cons hk'])]
  exact h _ (List.getElem_mem hk')

/-- A script of one repeated sample drives it at each of its edges. -/
theorem ports_of_replicate (latency n k : Nat) (p : Ports) (s : State) (hs : s.script = List.replicate n p) (hk : k < n) :
    (runEdges latency k s).ports = p := by
  refine ports_of_script_cons (rest := List.replicate (n - k - 1) p) ?_
  rw [runEdges_script, hs, List.drop_replicate, ← List.replicate_succ]
  congr 1
  omega

/-! ### Encoding -/

/-- R46: `a` in bits 255:128, `b` in bits 127:0; the word of V7. -/
theorem test_decode_word_v7 :
    decodeTableWord 256 0x0000000000000000000000000000000280000000000000000000000000000000 =
      some (.gfmul 0x2#128 0x80000000000000000000000000000000#128) := by decide

/-- The word of V21. -/
theorem test_decode_word_v21 :
    decodeTableWord 256 0xf3f49249dc28ff90a5aec7978306d03be512148239292d22e255accb1a466884 =
      some (.gfmul 0xf3f49249dc28ff90a5aec7978306d03b#128 0xe512148239292d22e255accb1a466884#128) := by decide

/-- A table word of fewer bits has zeros above them: bit 128 alone is `a = 1`. -/
theorem test_decode_short_word : decodeTableWord 136 (2 ^ 128) = some (.gfmul 1#128 0#128) := by decide

/-- R50: the all-zero and the all-ones words are operations like any other. -/
theorem test_no_word_is_reserved :
    decodeTableWord 256 0 = some (.gfmul 0 0) ∧
    decodeTableWord 256 (2 ^ 256 - 1) = some (.gfmul (BitVec.allOnes 128) (BitVec.allOnes 128)) := by decide

/-- R51: there is no form longer than 256 bits. -/
theorem test_no_longer_form : decodeTableWord 264 0 = none := by decide

/-- R51, the smoke test of the length check: a beat one byte short and one byte long are refused, a whole one is not. -/
theorem test_length_check_refuses :
    requestLengthOk (List.replicate 31 0) = false ∧ requestLengthOk (List.replicate 33 0) = false ∧
    requestLengthOk [] = false ∧ requestLengthOk (List.replicate 32 0) = true := by decide

/-- The byte decoder refuses them by name. -/
theorem test_short_beat_refused :
    decodeBytes (List.replicate 31 0) = .error (.notARequestBeat 31) := by rfl

/-- R41: the extreme operands are well formed; there is no operand for the check to refuse. -/
theorem test_extreme_operands_well_formed :
    (Instr.gfmul 0 0).wellFormed = true ∧ (Instr.gfmul (BitVec.allOnes 128) (BitVec.allOnes 128)).wellFormed = true := by
  decide

/-! ### The field multiplication -/

theorem test_clmul_has_no_carry : clmul 3 3 = 5 := by decide +kernel
theorem test_multiply_v7 : multiply 0x2 0x80000000000000000000000000000000 = 0x87 := by decide +kernel
theorem test_multiply_v9 :
    multiply 0x80000000000000000000000000000000 0x80000000000000000000000000000000 =
      0xc0000000000000000000000000001067 := by decide +kernel
theorem test_multiply_v12 :
    multiply (BitVec.allOnes 128) (BitVec.allOnes 128) = 0x5555555555555555555555555555402f := by decide +kernel
theorem test_clmul_halves_v21 :
    clmul 0xf3f49249dc28ff90a5aec7978306d03b 0xe512148239292d22e255accb1a466884 =
      0x584b0d0c5cc097a300abcb14453860249d1d557c083bcbca4ad1d27327a1256c := by decide +kernel
theorem test_multiply_v21 :
    multiply 0xf3f49249dc28ff90a5aec7978306d03b 0xe512148239292d22e255accb1a466884 =
      0x316af077fe33fc231c67293c603801d3 := by decide +kernel
theorem test_reduce_w3 :
    reduce 0x8000000000000000000000000000000000000000000000000000000000000000 =
      0x80000000000000000000000000002049 := by decide +kernel
theorem test_reduce_w4 : reduce (BitVec.allOnes 256) = 0xffffffffffffffffffffffffffffc071 := by decide +kernel
theorem test_fold_w8 :
    reduceFold 0x4200000000000000000000000000000000000000000000000000000000000005 =
      0xce0000000000000000000000000010e5 := by decide +kernel
theorem test_fold_carry_w4 : foldCarry (BitVec.allOnes 128) = 0x7d#7 := by decide +kernel
theorem test_serial_v23 :
    datapath .serial 0x6bad6be28e7aa6e99f19950499dd251d 0xd7a7a3cc8c3d5f169293de8fc88b2875 =
      0x9b4ae49056616a516e6dad01cb7fb5f0 := by decide +kernel
/-- V20, R80's example: the inverse of `x`. -/
theorem test_multiply_v20 : multiply elemX 0x80000000000000000000000000000043 = elemOne := by decide +kernel
/-- Section 9 (general knowledge, 93 G2): GCM test case 2, through the bit reversal. -/
theorem test_gcm_case_2 :
    gcmMultiply 0x66e94bd4ef8a2c3b884cfa59ca342b2e 0x0388dace60b6a392f328c2b971b2fe78 =
      0x5e2ec746917062882c85b0685353deb7 := by decide +kernel
/-- R31: byte 0 holds the coefficients of `x^0` to `x^7` in order `little`, byte 15 in order `big`. -/
theorem test_block_byte_order :
    operandOfBlock .little (1 :: List.replicate 15 0) = elemOne ∧
    operandOfBlock .big (List.replicate 15 0 ++ [1]) = elemOne := by decide +kernel

/-! ### One step of `GFMUL` -/

/-- T1 edge 5: the request is accepted and its operands are latched, the first field in `S.A`. -/
theorem test_gfmul_issue :
    (match exec (.gfmul elemTop elemX) (idleAt []) with
      | .next t => decide (t.phase = .busy ∧ t.opA = elemTop ∧ t.opB = elemX ∧ t.reqReady = false)
      | _ => false) = true := by decide

/-- T1 edges 2 and 6: the step that finds the count 0 has the product, whatever request is offered meanwhile. -/
theorem test_gfmul_execute :
    (match exec (.gfmul 3 3) (busyAt elemTop elemX 0 [quiet]) with
      | .next t => decide (t.phase = .done ∧ t.rspP = 0x87 ∧ t.rspValid = true)
      | _ => false) = true := by decide +kernel

/-! ### Witnesses: the hypotheses of each statement can be met -/

theorem witness_BytesDecodeAndEncodeAgree :
    (Instr.gfmul 0 0).wellFormed = true ∧ (List.replicate 32 (0 : Byte)).length = requestBytes := by decide

theorem witness_OtherLengthsAreNoBeat : ([] : List Byte).length ≠ requestBytes := by decide

theorem witness_DecodeTakesEveryBitOfTheBeat : (127 : Nat) < 128 ∧ decode 0 = decode 0 := by decide

theorem witness_FetchWordIsDecodedAndRun : (256 : Nat) ≤ 256 := by decide

theorem witness_ElementsAreTheResidues : poly elemOne % fieldPoly = poly elemOne % fieldPoly := rfl

theorem witness_ClmulIsThePolynomialProduct : (255 : Nat) < 256 := by decide

theorem witness_ClmulFacts : elemTop ≠ 0 ∧ elemX ≠ 0 ∧ (127 : Nat) < 128 := by decide

theorem witness_HalvesMakeTheProduct : (127 : Nat) < 128 := by decide

/-- A pass for bit 255, the highest, and for bit 128, the lowest; a value whose half `HI` is 0; `r = 0` for `c = 0`. -/
theorem witness_ReduceIsTheRemainder :
    (1#256 <<< 255).getLsbD 255 = true ∧ (1#256 <<< 128).getLsbD 128 = true ∧ hi (1#256) = 0 := by decide

theorem witness_ReduceIsTheRemainder_remainder : poly (0 : Elem) = poly (0 : Product) % fieldPoly := by
  simp [poly]

theorem witness_MultiplyByPowersOfX : (127 : Nat) < 128 := by decide

theorem witness_SquaringSpreadsAndAdds : (127 : Nat) < 128 := by decide

theorem witness_FieldHasUniqueInverses :
    multiply elemZero elemX = elemZero ∧ elemX ≠ elemZero ∧ (2 ^ 128 - 1) + 1 = 2 ^ 128 := by decide +kernel

theorem witness_InversionRecipeWorks : elemX ≠ elemZero ∧ (2 ^ 128 - 2) + 2 = 2 ^ 128 := by decide

theorem witness_StepRunsTheOfferedOperation :
    (idleAt [offerBeat 3 3]).ports.rst = false ∧ (idleAt [offerBeat 3 3]).ports.reqValid = true := by decide

theorem witness_GfmulIssuesFromIdle :
    (idleAt [offerBeat 3 3]).phase = .idle ∧ (idleAt [offerBeat 3 3]).ports.rst = false ∧
    (idleAt [offerBeat 3 3]).ports.reqValid = true ∧ (busyAt 3 3 0 []).phase ≠ .idle ∧ (doneAt 3 3 []).phase ≠ .idle := by
  decide +kernel

/-- From IDLE, with a script long enough for any LATENCY, no edge of the transaction is a reset. -/
theorem witness_GfmulDeliversTheProduct :
    ∃ s t : State, s.phase = .idle ∧ exec (.gfmul 3 3) s = .next t ∧ NoReset Config.latency Config.latency t := by
  refine ⟨idleAt (List.replicate (Config.latency + 1) quiet), _, rfl, rfl, ?_⟩
  intro k hk
  have h := ports_of_replicate Config.latency Config.latency k quiet
    (requestEdge Config.latency 3 3 (idleAt (List.replicate (Config.latency + 1) quiet))) rfl hk
  rw [h]
  rfl

/-- LATENCY 2: offer, two waits (the second with a request offered that nothing looks at), take. -/
theorem witness_TransactionCompletes :
    (1 : Nat) ≤ 2 ∧ (idleAt [offerBeat 3 5, quiet, takeAndOffer, takeBeat 0 0]).phase = .idle ∧
    (idleAt [offerBeat 3 5, quiet, takeAndOffer, takeBeat 0 0]).script =
      offerBeat 3 5 :: ([quiet, takeAndOffer] ++ takeBeat 0 0 :: []) ∧
    (offerBeat 3 5).rst = false ∧ (offerBeat 3 5).reqValid = true ∧ (offerBeat 3 5).reqA = 3 ∧ (offerBeat 3 5).reqB = 5 ∧
    [quiet, takeAndOffer].length = 2 ∧ (∀ p ∈ [quiet, takeAndOffer], p.rst = false) ∧
    (takeBeat 0 0).rst = false ∧ (takeBeat 0 0).rspReady = true := by decide

theorem witness_ExecuteHoldsTheProduct :
    (busyAt 3 3 0 [quiet]).ports.rst = false ∧ (busyAt 3 3 0 [quiet]).phase = .busy ∧ (busyAt 3 3 0 [quiet]).cnt = 0 ∧
    takeAndOffer.rst = false := by decide

theorem witness_RetireTransfersTheHeldResult :
    (doneAt 3 3 [takeBeat 0 0]).ports.rst = false ∧ (doneAt 3 3 [takeBeat 0 0]).phase = .done ∧
    (doneAt 3 3 [takeBeat 0 0]).prod = some (multiply 3 3) ∧ (doneAt 3 3 [takeBeat 0 0]).ports.rspReady = true :=
  ⟨rfl, rfl, rfl, rfl⟩

/-- The host holds `rsp_ready` low for two edges. -/
theorem witness_RetireTransfersTheHeldResult_held :
    (doneAt 3 3 (List.replicate 2 quiet)).phase = .done ∧
    (doneAt 3 3 (List.replicate 2 quiet)).prod = some (multiply 3 3) ∧
    ∀ k, k < 2 → (runEdges Config.latency k (doneAt 3 3 (List.replicate 2 quiet))).ports.rst = false ∧
      (runEdges Config.latency k (doneAt 3 3 (List.replicate 2 quiet))).ports.rspReady = false := by
  refine ⟨rfl, rfl, fun k hk => ?_⟩
  rw [ports_of_replicate Config.latency 2 k quiet _ rfl hk]
  exact ⟨rfl, rfl⟩

theorem witness_HoldKeepsTheBlock :
    ((idleAt [quiet]).ports.rst = false ∧ (idleAt [quiet]).phase = .idle ∧ (idleAt [quiet]).ports.reqValid = false) ∧
    ((doneAt 3 3 [quiet]).ports.rst = false ∧ (doneAt 3 3 [quiet]).phase = .done ∧
      (doneAt 3 3 [quiet]).ports.rspReady = false) ∧
    (offerBeat 0 0).rst = false ∧ (offerBeat 0 0).reqValid = true ∧
    (takeBeat 0 0).rst = false ∧ (takeBeat 0 0).rspReady = true :=
  ⟨⟨rfl, rfl, rfl⟩, ⟨rfl, rfl, rfl⟩, rfl, rfl, rfl, rfl⟩

theorem witness_HoldKeepsTheBlock_idle :
    (idleAt (List.replicate 2 quiet)).phase = .idle ∧
    ∀ k, k < 2 → (runEdges Config.latency k (idleAt (List.replicate 2 quiet))).ports.rst = false ∧
      (runEdges Config.latency k (idleAt (List.replicate 2 quiet))).ports.reqValid = false := by
  refine ⟨rfl, fun k hk => ?_⟩
  rw [ports_of_replicate Config.latency 2 k quiet _ rfl hk]
  exact ⟨rfl, rfl⟩

/-- Every row of the table has a state it applies to. -/
theorem witness_StepFollowsTheTable :
    stepName (idleAt [resetAndAll]) = .reset ∧ stepName (idleAt [offerBeat 3 3]) = .issue ∧
    stepName (idleAt [quiet]) = .hold ∧ stepName (busyAt 3 3 1 [quiet]) = .tick ∧
    stepName (busyAt 3 3 0 [quiet]) = .execute ∧ stepName (doneAt 3 3 [takeBeat 0 0]) = .retire ∧
    stepName (doneAt 3 3 [quiet]) = .hold :=
  ⟨rfl, rfl, rfl, rfl, rfl, rfl, rfl⟩

/-- LATENCY 1, taken at the first edge it can be, `r = 2`. -/
theorem witness_EdgeArithmetic :
    stepName (idleAt [offerBeat 3 3, quiet, takeBeat 0 0]) = .issue ∧
    NoReset 1 3 (idleAt [offerBeat 3 3, quiet, takeBeat 0 0]) ∧
    (∀ k, 1 + 1 ≤ k → k < 2 → (runEdges 1 k (idleAt [offerBeat 3 3, quiet, takeBeat 0 0])).ports.rspReady = false) ∧
    (runEdges 1 2 (idleAt [offerBeat 3 3, quiet, takeBeat 0 0])).ports.rspReady = true := by
  refine ⟨rfl, noReset_of_script _ _ _ (by decide) (by decide), fun k h1 h2 => by omega, ?_⟩
  rw [ports_of_script_cons (rest := []) (by rw [runEdges_script]; rfl)]
  rfl

/-- LATENCY 2, taken one edge late, `r = 4`: edge 1 is a TICK and edge 3 a HOLD, so no range is empty. -/
theorem witness_EdgeArithmetic_late :
    stepName (idleAt [offerBeat 3 3, quiet, quiet, quiet, takeBeat 0 0]) = .issue ∧
    NoReset 2 5 (idleAt [offerBeat 3 3, quiet, quiet, quiet, takeBeat 0 0]) ∧
    (∀ k, 2 + 1 ≤ k → k < 4 →
      (runEdges 2 k (idleAt [offerBeat 3 3, quiet, quiet, quiet, takeBeat 0 0])).ports.rspReady = false) ∧
    (runEdges 2 4 (idleAt [offerBeat 3 3, quiet, quiet, quiet, takeBeat 0 0])).ports.rspReady = true ∧
    stepName (runEdges 2 1 (idleAt [offerBeat 3 3, quiet, quiet, quiet, takeBeat 0 0])) = .tick ∧
    stepName (runEdges 2 3 (idleAt [offerBeat 3 3, quiet, quiet, quiet, takeBeat 0 0])) = .hold := by
  refine ⟨rfl, noReset_of_script _ _ _ (by decide) (by decide), fun k h1 h2 => ?_, rfl, rfl, rfl⟩
  obtain rfl : k = 3 := by omega
  rfl

/-- LATENCY 1, a host that is always ready and always has a request, over seven edges: two transactions and one more ISSUE. -/
theorem witness_EdgeArithmetic_rate :
    (idleAt (List.replicate 7 takeAndOffer)).phase = .idle ∧
    ∀ k, k ≤ 6 → (runEdges 1 k (idleAt (List.replicate 7 takeAndOffer))).ports.rst = false ∧
      (runEdges 1 k (idleAt (List.replicate 7 takeAndOffer))).ports.reqValid = true ∧
      (runEdges 1 k (idleAt (List.replicate 7 takeAndOffer))).ports.rspReady = true := by
  refine ⟨rfl, fun k hk => ?_⟩
  rw [ports_of_replicate 1 7 k takeAndOffer _ rfl (by omega)]
  exact ⟨rfl, rfl, rfl⟩

theorem witness_CoincidentInputs :
    ((doneAt 3 3 [takeAndOffer]).ports.rst = false ∧ (doneAt 3 3 [takeAndOffer]).phase = .done ∧
      (doneAt 3 3 [takeAndOffer]).ports.reqValid = true ∧ (doneAt 3 3 [takeAndOffer]).ports.rspReady = true) ∧
    (busyAt 3 3 0 []).phase = .busy ∧ quiet.rst = false ∧ takeAndOffer.rst = false ∧ (idleAt []).phase = .idle ∧
    (takeBeat 0 0).rst = takeAndOffer.rst ∧ (takeBeat 0 0).rspReady = takeAndOffer.rspReady ∧
    resetAndAll.rst = true ∧ resetBeat.rst = true :=
  ⟨⟨rfl, rfl, rfl, rfl⟩, rfl, rfl, rfl, rfl, rfl, rfl, rfl, rfl⟩

theorem witness_ResetHasPrecedence :
    (doneAt 3 3 [resetAndAll]).ports.rst = true ∧ stepName (busyAt 3 3 1 [quiet]) = .tick ∧
    (busyAt 3 3 1 [quiet]).ports.rst = false := ⟨rfl, rfl, rfl⟩

/-- A block in BUSY with two edges to go, none of them a reset. -/
theorem witness_NoStateIsStuck :
    (idleAt []).phase = .idle ∧ (doneAt 3 3 []).phase = .done ∧ (busyAt 3 3 1 [quiet, quiet]).phase = .busy ∧
    NoReset Config.latency ((busyAt 3 3 1 [quiet, quiet]).cnt + 1) (busyAt 3 3 1 [quiet, quiet]) ∧
    ∃ t, step (idleAt [quiet]) = .next t :=
  ⟨rfl, rfl, rfl, noReset_of_script _ _ _ (by decide) (by decide), _, rfl⟩

theorem witness_PhasesMoveAsListed : ∃ t, step (idleAt [offerBeat 3 3]) = .next t ∧ t.phase = .busy := ⟨_, rfl, rfl⟩

theorem witness_ResetStepGivesIdle : (busyAt 3 3 1 [resetAndAll]).ports.rst = true := rfl

theorem witness_HeldResetIsOneReset :
    (1 : Nat) ≤ 2 ∧ (∀ k, k < 2 → (runEdges Config.latency k (idleAt [resetAndAll, resetAndAll, takeAndOffer])).ports.rst = true) ∧
    (runEdges Config.latency 2 (idleAt [resetAndAll, resetAndAll, takeAndOffer])).ports = takeAndOffer := by
  refine ⟨by decide, fun k hk => ?_, ports_of_script_cons (rest := []) (by rw [runEdges_script]; rfl)⟩
  obtain rfl | rfl : k = 0 ∨ k = 1 := by omega
  · rfl
  · rw [ports_of_script_cons (rest := [takeAndOffer]) (by rw [runEdges_script]; rfl)]
    rfl

/-- A result offered, and reset at the very edge at which it would have been taken. -/
theorem witness_ResetDiscardsTheTransaction :
    (doneAt 3 5 [resetAndAll]).Faithful ∧ (doneAt 3 5 [resetAndAll]).phase ≠ .idle ∧
    (doneAt 3 5 [resetAndAll]).ports.rst = true ∧ (doneAt 3 5 [resetAndAll]).ports.rspReady = true :=
  ⟨⟨3, 5, rfl, rfl, rfl⟩, nofun, rfl, rfl⟩

theorem witness_StepKeepsConsistency :
    (doneAt 3 5 [takeBeat 0 0]).Consistent Config.latency ∧ ∃ t, step (doneAt 3 5 [takeBeat 0 0]) = .next t :=
  ⟨⟨by simp [doneAt], by simp [doneAt, State.reset, Config.latency]⟩, _, rfl⟩

theorem witness_StepKeepsFaithfulness :
    (busyAt 3 5 0 [quiet]).Faithful ∧ ∃ t, step (busyAt 3 5 0 [quiet]) = .next t := ⟨⟨rfl, rfl⟩, _, rfl⟩

/-- LATENCY 1: a reset, then one whole transaction, which ends the run in IDLE with the host's script empty of requests. -/
theorem witness_ResponseTraceIsMultiplyOfRequestTrace :
    (1 : Nat) ≤ 1 ∧ (idleAt [resetAndAll, offerBeat 3 5, quiet, takeBeat 0 0]).trace = [] ∧
    (idleAt [resetAndAll, offerBeat 3 5, quiet, takeBeat 0 0]).ports.rst = true ∧
    NoReset 1 3 (clockEdge 1 (idleAt [resetAndAll, offerBeat 3 5, quiet, takeBeat 0 0])) ∧
    (runEdges 1 (3 + 1) (idleAt [resetAndAll, offerBeat 3 5, quiet, takeBeat 0 0])).phase = .idle ∧
    (runEdges 1 (3 + 1) (idleAt [resetAndAll, offerBeat 3 5, quiet, takeBeat 0 0])).ended = true ∧
    (runEdges 1 (1 + 1) (idleAt [resetAndAll, offerBeat 3 5, quiet, takeBeat 0 0])).phase ≠ .idle := by
  refine ⟨le_rfl, rfl, rfl, noReset_of_script _ _ _ ?_ ?_, rfl, rfl, nofun⟩
  · rw [clockEdge_script]
    decide
  · rw [clockEdge_script]
    decide

/-- LATENCY 1 taken at once, and LATENCY 2 taken one edge late by a host that offers another request meanwhile. -/
theorem witness_ResultDependsOnOperandsOnly :
    OneTransaction 1 2 3 5 (idleAt [offerBeat 3 5, quiet, takeBeat 0 0]) ∧
    OneTransaction 2 4 3 5 (idleAt [offerBeat 3 5, takeAndOffer, takeAndOffer, quiet, takeAndOffer]) := by
  refine ⟨⟨rfl, rfl, rfl, noReset_of_script _ _ _ (by decide) (by decide), fun k hk => ?_, rfl⟩,
    ⟨rfl, rfl, rfl, noReset_of_script _ _ _ (by decide) (by decide), fun k hk => ?_, rfl⟩⟩
  · obtain rfl | rfl : k = 0 ∨ k = 1 := by omega
    all_goals exact nofun
  · obtain rfl | rfl | rfl | rfl : k = 0 ∨ k = 1 ∨ k = 2 ∨ k = 3 := by omega
    all_goals exact nofun

theorem witness_HostTransactionGivesProduct :
    (1 : Nat) ≤ 1 ∧ (1 : Nat) ≤ 3 ∧ (idleAt []).phase = .idle ∧ (idleAt [resetAndAll]).phase = .idle := by decide

/-- Two states in BUSY with different operands, whose hosts offer different requests at the same time. -/
theorem witness_HandshakeTimingHidesOperands :
    (busyAt 3 5 1 [offerBeat 1 2]).SameTiming (busyAt 7 elemTop 1 [offerBeat 8 9]) ∧
    0 < (busyAt 3 5 1 [offerBeat 1 2]).script.length ∧ 1 ≤ (busyAt 3 5 1 [offerBeat 1 2]).script.length :=
  ⟨⟨rfl, fun _ => rfl, .cons ⟨rfl, rfl, rfl⟩ .nil⟩, by decide, by decide⟩

theorem witness_EdgesRefineTransactionSteps :
    (busyAt 3 5 0 [quiet]).Consistent Config.latency ∧ ∃ t, step (busyAt 3 5 0 [quiet]) = .next t :=
  ⟨⟨by simp [busyAt, State.reset], by simp [busyAt, Config.latency]⟩, _, rfl⟩

theorem witness_TransactionStepsByPhase :
    TStep ⟨.idle, 0, 0, none⟩ (.issue 3 5) ⟨.busy, 3, 5, none⟩ ∧
    TStep ⟨.busy, 3, 5, none⟩ .execute ⟨.done, 0, 0, some (multiply 3 5)⟩ ∧
    TStep ⟨.done, 0, 0, some 7⟩ (.retire 7) ⟨.idle, 0, 0, none⟩ :=
  ⟨.issue _ _ _ _ rfl, .execute _ _ _ rfl, .retire _ _ _ _ rfl rfl⟩

/-- A script with one transaction: it runs to its end on the block, and binds `3 * 5 = 0xf` (no reduction). -/
theorem witness_ScriptsMeanFieldArithmetic :
    (1 : Nat) ≤ 1 ∧ (idleAt []).phase = .idle ∧
    (runScript 1 [.hostLet 0 (.lit 3), .gfmul 1 (.var 0) (.lit 5)] ⟨[], true⟩ (idleAt [])).map Prod.fst =
      some ⟨[(1, 0xf), (0, 3)], true⟩ := by decide +kernel

theorem witness_BlockBytesByOrder : (15 : Nat) < (List.replicate 16 (0xaa : Byte)).length ∧
    (List.replicate 16 (0xaa : Byte)).length = 16 := by decide

end Sys2Proof.Tests
end

section
/-! SUPPORT. The rows of an edge by name, the handshake outputs as functions of the phase, and the step as the clocked
edge of R97: what the statements of spec/10_state.md are settled from. -/

namespace Sys2Proof.Machine

/-! ### The open LATENCY and the step -/

theorem one_le_configLatency : 1 ≤ Config.latency := Nat.succ_pos _

/-- The step is the clocked edge of a block whose LATENCY is the open constant (R97, R8). -/
theorem step_eq_clockEdge (s : State) : step s = .next (clockEdge Config.latency s) := by
  cases hrst : s.ports.rst with
  | true => simp [step, hrst, clockEdge, stepName_of_rst hrst]
  | false =>
    cases hreq : s.ports.reqValid with
    | true => simp [step, hrst, hreq, decode, exec, execGfmul, clockEdge_of_request _ hrst hreq]
    | false => simp [step, hrst, hreq, clockEdge_of_no_request _ hrst hreq]

theorem step_eq_next_iff {s t : State} : step s = .next t ↔ clockEdge Config.latency s = t := by
  rw [step_eq_clockEdge, Host.Outcome.next.injEq]

/-! ### The handshake outputs -/

theorem reqReady_eq_decide (s : State) : s.reqReady = decide (s.phase = .idle) := by
  rw [Bool.eq_iff_iff, reqReady_eq_true_iff, decide_eq_true_iff]

theorem rspValid_eq_decide (s : State) : s.rspValid = decide (s.phase = .done) := by
  rw [Bool.eq_iff_iff, rspValid_eq_true_iff, decide_eq_true_iff]

/-! ### The rows of R97 by name -/

theorem stepName_eq_retire_iff {s : State} :
    stepName s = .retire ↔ s.ports.rst = false ∧ s.phase = .done ∧ s.ports.rspReady = true := by
  cases hrst : s.ports.rst with
  | true => simp [stepName_of_rst hrst]
  | false =>
    cases hp : s.phase with
    | idle => simp [stepName_of_idle hrst hp, ite_eq_iff]
    | busy => simp [stepName_of_busy hrst hp, ite_eq_iff]
    | done => simp [stepName_of_done hrst hp]

theorem clockEdge_of_issue (latency : Nat) {s : State} (h : stepName s = .issue) :
    clockEdge latency s = issueEdge latency s.ports.reqA s.ports.reqB s := by
  simp [clockEdge, h]

theorem clockEdge_of_tick (latency : Nat) {s : State} (h : stepName s = .tick) :
    clockEdge latency s = countEdge s := by
  simp [clockEdge, h]

theorem clockEdge_of_execute (latency : Nat) {s : State} (h : stepName s = .execute) :
    clockEdge latency s = executeEdge s := by
  simp [clockEdge, h]

theorem clockEdge_of_hold (latency : Nat) {s : State} (h : stepName s = .hold) :
    clockEdge latency s = holdEdge s := by
  simp [clockEdge, h]

theorem clockEdge_of_retire (latency : Nat) {s : State} (h : stepName s = .retire) :
    clockEdge latency s = retireEdge s := by
  simp [clockEdge, h]

/-- The moves of the phase with the row that makes each (R24). -/
theorem clockEdge_phase_cases (latency : Nat) (s : State) :
    (clockEdge latency s).phase = s.phase ∨
    (s.phase = .idle ∧ (clockEdge latency s).phase = .busy ∧ stepName s = .issue) ∨
    (s.phase = .busy ∧ (clockEdge latency s).phase = .done ∧ stepName s = .execute) ∨
    (s.phase = .done ∧ (clockEdge latency s).phase = .idle ∧ stepName s = .retire) ∨
    ((clockEdge latency s).phase = .idle ∧ stepName s = .reset) := by
  obtain ⟨hrst, he⟩ | ⟨hrst, hp, hreq, he⟩ | ⟨-, -, -, he⟩ | ⟨-, -, -, he⟩ | ⟨hrst, hp, hcnt, he⟩ |
    ⟨hrst, hp, hrsp, he⟩ | ⟨-, -, -, he⟩ := clockEdge_cases latency s
  · simp [he, stepName_of_rst hrst]
  · simp [he, hp, stepName_of_idle hrst hp, hreq]
  · simp [he]
  · simp [he]
  · simp [he, hp, stepName_of_busy hrst hp, hcnt]
  · simp [he, hp, stepName_of_done hrst hp, hrsp]
  · simp [he]

/-! ### Consistency -/

/-- R17 and R26 are kept by every edge of a block with any LATENCY of at least 1. -/
theorem clockEdge_consistent {latency : Nat} (hlat : 1 ≤ latency) {s : State} (h : s.Consistent latency) :
    (clockEdge latency s).Consistent latency := by
  obtain ⟨hprod, hcnt⟩ := h
  obtain ⟨-, he⟩ | ⟨-, hp, -, he⟩ | ⟨-, -, -, he⟩ | ⟨-, -, -, he⟩ | ⟨-, -, -, he⟩ | ⟨-, -, -, he⟩ |
    ⟨-, -, -, he⟩ := clockEdge_cases latency s <;> rw [he]
  · exact ⟨by simp, Nat.mod_lt _ hlat⟩
  · exact ⟨by simpa [hp] using hprod, Nat.sub_one_lt_of_le hlat le_rfl⟩
  · exact ⟨hprod, hcnt⟩
  · exact ⟨hprod, (Nat.sub_le _ _).trans_lt hcnt⟩
  · exact ⟨by simp, hcnt⟩
  · exact ⟨by simp, hcnt⟩
  · exact ⟨hprod, hcnt⟩

end Sys2Proof.Machine
end

section
/-! SUPPORT. Both datapaths compute `MULTIPLY` (spec/40_field_multiply.md R64, R68, R69, R71): the serial loops are the
plain ones under a mask, and the fold is an additive map that every multiple of `f(x)` leaves unchanged. -/

namespace Sys2Proof.Machine

/-! ### The serial stages -/

theorem and_repBits {n : Nat} (v : BitVec n) (c : Bool) : v &&& repBits n c = if c then v else 0 := by
  cases c <;> simp [repBits]

/-- `CLMUL` cut off after the first `n` bits of `b` is the serial accumulator after `n` iterations (R68). -/
theorem clmulSerialLoop_eq_foldl (a b : Elem) (n : Nat) :
    clmulSerialLoop a b n =
      ((List.range n).filter fun i => b.getLsbD i).foldl (fun acc i => acc ^^^ shiftedCopy a i) 0 := by
  induction n with
  | zero => rfl
  | succ n ih =>
    rw [clmulSerialLoop, ih, and_repBits, List.range_succ, List.filter_append, List.foldl_append]
    cases hb : b.getLsbD n <;> simp [hb]

theorem clmulSerial_eq_clmul (a b : Elem) : clmulSerial a b = clmul a b := clmulSerialLoop_eq_foldl a b 128

theorem reduceSerialLoop_eq_reduceLoop (n : Nat) (c : Product) : reduceSerialLoop n c = reduceLoop n c := by
  induction n generalizing c with
  | zero => rfl
  | succ n ih =>
    rw [reduceSerialLoop, reduceLoop, ih, and_repBits]
    cases hc : c.getLsbD (128 + n) <;> simp

theorem reduceSerial_eq_reduce (c : Product) : reduceSerial c = reduce c :=
  congrArg lo (reduceSerialLoop_eq_reduceLoop 128 c)

/-! ### Long division clears the high half -/

theorem hi_eq_zero_of_getLsbD {c : Product} (h : ∀ i, 128 ≤ i → c.getLsbD i = false) : hi c = 0 := by
  apply BitVec.eq_of_getLsbD_eq
  intro i hlt
  simp [hi, hlt, h (128 + i) (Nat.le_add_right _ _)]

/-- `x^k * f(x)` has degree `128 + k`. -/
theorem getLsbD_shiftedFpoly_top {k : Nat} (hk : k < 128) : (shiftedFpoly k).getLsbD (128 + k) = true := by
  have hlead : fpoly.getLsbD 128 = true := by decide
  have hwidth : 128 + k < 256 := by omega
  simp [shiftedFpoly, hlead, hwidth]

theorem getLsbD_shiftedFpoly_above {k i : Nat} (hki : 128 + k < i) : (shiftedFpoly k).getLsbD i = false := by
  have habove : fpoly.getLsbD (i - k) = false := BitVec.getLsbD_of_ge _ _ (by omega)
  simp [shiftedFpoly, habove]

/-- The passes for bits `127 + n` down to 128 clear a value that has no bit above them (R63). -/
theorem hi_reduceLoop {n : Nat} (hn : n ≤ 128) {c : Product} (h : ∀ i, 128 + n ≤ i → c.getLsbD i = false) :
    hi (reduceLoop n c) = 0 := by
  induction n generalizing c with
  | zero => exact hi_eq_zero_of_getLsbD h
  | succ n ih =>
    refine ih (by omega) fun i hle => ?_
    obtain rfl | habove : i = 128 + n ∨ 128 + n < i := by omega
    · cases hc : c.getLsbD (128 + n) <;> simp [hc, getLsbD_shiftedFpoly_top (show n < 128 by omega)]
    · have hci : c.getLsbD i = false := h i (by omega)
      split <;> simp [hci, getLsbD_shiftedFpoly_above habove]

theorem hi_reduceLoop_all (c : Product) : hi (reduceLoop 128 c) = 0 :=
  hi_reduceLoop le_rfl (BitVec.getLsbD_of_ge c)

/-! ### The fold is additive and kills the multiples of `f(x)` -/

theorem hi_xor (c d : Product) : hi (c ^^^ d) = hi c ^^^ hi d := BitVec.extractLsb'_xor

theorem lo_xor (c d : Product) : lo (c ^^^ d) = lo c ^^^ lo d := BitVec.extractLsb'_xor

theorem foldCarry_xor (g h : Elem) : foldCarry (g ^^^ h) = foldCarry g ^^^ foldCarry h := by
  simp only [foldCarry, BitVec.ushiftRight_xor_distrib, BitVec.setWidth_xor]
  ac_rfl

theorem reduceFold_xor (c d : Product) : reduceFold (c ^^^ d) = reduceFold c ^^^ reduceFold d := by
  simp only [reduceFold, hi_xor, lo_xor, foldCarry_xor, BitVec.setWidth_xor, BitVec.shiftLeft_xor_distrib]
  ac_rfl

/-- The fold sends each `x^k * f(x)` that long division subtracts to 0. -/
theorem reduceFold_shiftedFpoly : ∀ k, k < 128 → reduceFold (shiftedFpoly k) = 0 := by decide +kernel

theorem reduceFold_of_hi_eq_zero {c : Product} (h : hi c = 0) : reduceFold c = lo c := by
  simp [reduceFold, h, foldCarry]

/-- No pass of long division changes what the fold gives. -/
theorem reduceFold_reduceLoop {n : Nat} (hn : n ≤ 128) (c : Product) : reduceFold (reduceLoop n c) = reduceFold c := by
  induction n generalizing c with
  | zero => rfl
  | succ n ih =>
    rw [reduceLoop, ih (by omega)]
    split
    · simp [reduceFold_xor, reduceFold_shiftedFpoly n (by omega)]
    · rfl

/-- R64: folding gives the remainder on every 256-bit value. -/
theorem reduceFold_eq_reduce (c : Product) : reduceFold c = reduce c := by
  calc reduceFold c = reduceFold (reduceLoop 128 c) := (reduceFold_reduceLoop le_rfl c).symm
    _ = lo (reduceLoop 128 c) := reduceFold_of_hi_eq_zero (hi_reduceLoop_all c)
    _ = reduce c := rfl

/-- R66, R71: either datapath computes `MULTIPLY`. -/
theorem datapath_eq_multiply (impl : Impl) (a b : Elem) : datapath impl a b = multiply a b := by
  cases impl with
  | parallel => exact reduceFold_eq_reduce (clmul a b)
  | serial => rw [datapath, reduceSerial_eq_reduce, clmulSerial_eq_clmul, multiply]

end Sys2Proof.Machine
end

section
/-! SUPPORT. One transaction from its request beat to its response beat, under any host (spec/10_state.md R16). -/

namespace Sys2Proof.Machine

/-- The block is carrying the transaction on `a` and `b`: in BUSY it has their latches, in DONE their product. -/
def State.Carries (a b : Elem) (s : State) : Prop :=
  (s.phase = .busy ∧ s.opA = a ∧ s.opB = b) ∨ (s.phase = .done ∧ s.prod = some (multiply a b))

theorem carries_issueEdge (latency : Nat) (a b : Elem) (s : State) : (issueEdge latency a b s).Carries a b :=
  .inl ⟨rfl, rfl, rfl⟩

theorem State.Carries.rspP_eq {a b : Elem} {s : State} (h : s.Carries a b) (hd : s.phase = .done) :
    s.rspP = multiply a b := by
  obtain ⟨hb, -⟩ | ⟨-, hprod⟩ := h
  · simp [hb] at hd
  · exact rspP_of_done hd hprod

/-- An edge that is neither RESET nor RETIRE goes on with the transaction, and no beat transfers at it. -/
theorem State.Carries.after_edge {a b : Elem} {s : State} (h : s.Carries a b) (latency : Nat)
    (hrst : s.ports.rst = false) (hret : stepName s ≠ .retire) :
    (clockEdge latency s).Carries a b ∧ (clockEdge latency s).trace = s.trace := by
  obtain ⟨hp, rfl, rfl⟩ | ⟨hp, hprod⟩ := h
  · by_cases hc : s.cnt = 0
    · have hname : stepName s = .execute := by simp [stepName_of_busy hrst hp, hc]
      rw [clockEdge_of_execute latency hname]
      exact ⟨.inr ⟨rfl, rfl⟩, rfl⟩
    · have hname : stepName s = .tick := by simp [stepName_of_busy hrst hp, hc]
      rw [clockEdge_of_tick latency hname]
      exact ⟨.inl ⟨hp, rfl, rfl⟩, rfl⟩
  · have hname : stepName s = .hold := by simpa [stepName_of_done hrst hp] using hret
    rw [clockEdge_of_hold latency hname]
    exact ⟨.inr ⟨hp, hprod⟩, rfl⟩

/-- Over edges that are neither RESET nor RETIRE the block goes on with the transaction that the first edge accepted. -/
theorem runEdges_carries {latency : Nat} {s : State} (hissue : stepName s = .issue) (k : Nat)
    (hrst : NoReset latency (k + 1) s) (hret : ∀ j, j < k + 1 → stepName (runEdges latency j s) ≠ .retire) :
    (runEdges latency (k + 1) s).Carries s.ports.reqA s.ports.reqB ∧
    (runEdges latency (k + 1) s).trace = .issued s.ports.reqA s.ports.reqB :: s.trace := by
  induction k with
  | zero =>
    rw [runEdges_succ_last, runEdges_zero, clockEdge_of_issue latency hissue]
    exact ⟨carries_issueEdge .., issueEdge_trace ..⟩
  | succ k ih =>
    obtain ⟨hcarries, htrace⟩ := ih (fun j hj => hrst j (by omega)) fun j hj => hret j (by omega)
    rw [runEdges_succ_last, ← htrace]
    exact hcarries.after_edge latency (hrst (k + 1) (by omega)) (hret (k + 1) (by omega))

/-- A transaction on `a` and `b` offers their product at its last edge, and its two beats are all it adds to the trace. -/
theorem OneTransaction.result {latency n : Nat} {a b : Elem} {s : State} (h : OneTransaction latency n a b s) :
    (runEdges latency n s).rspP = multiply a b ∧
    (runEdges latency (n + 1) s).trace = .responded (multiply a b) :: .issued a b :: s.trace := by
  obtain ⟨hissue, rfl, rfl, hrst, hret, hlast⟩ := h
  cases n with
  | zero => simp [hissue] at hlast
  | succ k =>
    obtain ⟨hcarries, htrace⟩ := runEdges_carries hissue k hrst hret
    obtain ⟨-, hdone, -⟩ := stepName_eq_retire_iff.mp hlast
    have hrsp := hcarries.rspP_eq hdone
    refine ⟨hrsp, ?_⟩
    rw [runEdges_succ_last, clockEdge_of_retire latency hlast, retireEdge_trace, hrsp, htrace]

end Sys2Proof.Machine
end

section
/-! The statements of spec/10_state.md, settled. -/

namespace Sys2Proof.Proofs

open Sys2Proof.Machine

/-- Settles O48: the step is a clocked edge, and every row of R97 keeps R17 and R26. -/
theorem stepKeepsConsistency : Obligations.StepKeepsConsistency := by
  intro s t hs hstep
  rw [← step_eq_next_iff.mp hstep]
  exact clockEdge_consistent one_le_configLatency hs

/-- Settles O42: the outputs are read off the phase, the moves off the rows of R97. -/
theorem phasesMoveAsListed : Obligations.PhasesMoveAsListed := by
  refine ⟨fun s => ?_, fun s t hstep => ?_⟩
  · rw [reqReady_eq_decide, rspValid_eq_decide]
    exact ⟨fun h => by simp [h], fun h => by simp [h], fun h => by simp [h]⟩
  · rw [← step_eq_next_iff.mp hstep]
    exact clockEdge_phase_cases Config.latency s

/-- Settles O53: each transaction's result is `MULTIPLY` of its operands, which is what either datapath computes. -/
theorem resultDependsOnOperandsOnly : Obligations.ResultDependsOnOperandsOnly := by
  intro latency latency' n n' impl impl' a b s t _ _ hs ht
  obtain ⟨hrsp, htrace⟩ := hs.result
  obtain ⟨hrsp', -⟩ := ht.result
  rw [datapath_eq_multiply impl, datapath_eq_multiply impl']
  exact ⟨hrsp.trans hrsp'.symm, hrsp, rfl, htrace⟩

/-- Settles O44. -/
theorem resetStateIsIdle : Obligations.ResetStateIsIdle := ⟨rfl, rfl, rfl, rfl⟩

/-- Settles O49: the count 0 is below any LATENCY, which is at least 1. -/
theorem resetIsConsistent : Obligations.ResetIsConsistent := ⟨by simp [State.reset], one_le_configLatency⟩

end Sys2Proof.Proofs
end

section
/-! SUPPORT. The bytes of the host's operands (spec/20_memory.md R31), and the step at an offered beat (R38). -/

namespace Sys2Proof.Machine

/-! ### Putting a byte below an operand -/

theorem extractLsb'_low_cons (b : Byte) (v : Elem) : (b.setWidth 128 ||| v <<< 8).extractLsb' 0 8 = b := by
  apply BitVec.eq_of_getLsbD_eq
  intro j hj
  have hwidth : j < 128 := by omega
  simp [hj, hwidth]

/-- The bytes of `v` move up by one place. The bound is needed: the top byte of `v` is cut off. -/
theorem extractLsb'_succ_cons (b : Byte) (v : Elem) {k : Nat} (hk : k + 1 < 16) :
    (b.setWidth 128 ||| v <<< 8).extractLsb' (8 * (k + 1)) 8 = v.extractLsb' (8 * k) 8 := by
  apply BitVec.eq_of_getLsbD_eq
  intro j hj
  have hwidth : 8 * (k + 1) + j < 128 := by omega
  have hlow : b.getLsbD (8 * (k + 1) + j) = false := BitVec.getLsbD_of_ge _ _ (by omega)
  have hshifted : ¬ 8 * (k + 1) + j < 8 := by omega
  have hup : 8 * (k + 1) + j - 8 = 8 * k + j := by omega
  have hbit : 8 * k + j < 128 := by omega
  simp [hj, hwidth, hlow, hshifted, hup, BitVec.getLsbD_eq_getElem hbit]

/-! ### Order `little` -/

/-- Byte `k` of the block is bits `8k+7 : 8k` of the operand (R31). -/
theorem extractLsb'_operandOfBytesLE (block : List Byte) {k : Nat} (hk : k < block.length) (hk16 : k < 16) :
    (operandOfBytesLE block).extractLsb' (8 * k) 8 = block[k] := by
  induction block generalizing k with
  | nil => simp at hk
  | cons b bs ih =>
    cases k with
    | zero => exact extractLsb'_low_cons b (operandOfBytesLE bs)
    | succ k =>
      have hlt : k < bs.length := Nat.lt_of_succ_lt_succ hk
      exact (extractLsb'_succ_cons b (operandOfBytesLE bs) hk16).trans (ih hlt (by omega))

@[simp] theorem length_bytesLEOfOperand (v : Elem) : (bytesLEOfOperand v).length = 16 := by
  simp [bytesLEOfOperand]

@[simp] theorem getElem_bytesLEOfOperand (v : Elem) (k : Nat) (hk : k < (bytesLEOfOperand v).length) :
    (bytesLEOfOperand v)[k] = v.extractLsb' (8 * k) 8 := by
  simp [bytesLEOfOperand]

/-- An operand is its 16 bytes: bit `i` is bit `i % 8` of byte `i / 8`. -/
theorem bytesLEOfOperand_injective : Function.Injective bytesLEOfOperand := by
  intro v w h
  apply BitVec.eq_of_getLsbD_eq
  intro i hi
  have hbyte : v.extractLsb' (8 * (i / 8)) 8 = w.extractLsb' (8 * (i / 8)) 8 := by
    have hlt : i / 8 < 16 := by omega
    simpa [hlt] using congrArg (fun bs => bs[i / 8]?) h
  have hbit := congrArg (fun b => b.getLsbD (i % 8)) hbyte
  simpa [Nat.mod_lt, Nat.div_add_mod] using hbit

theorem bytesLEOfOperand_operandOfBytesLE {block : List Byte} (h : block.length = 16) :
    bytesLEOfOperand (operandOfBytesLE block) = block := by
  refine List.ext_getElem (by simp [h]) fun k hk hkb => ?_
  rw [getElem_bytesLEOfOperand, extractLsb'_operandOfBytesLE block hkb (h ▸ hkb)]

theorem operandOfBytesLE_bytesLEOfOperand (v : Elem) : operandOfBytesLE (bytesLEOfOperand v) = v :=
  bytesLEOfOperand_injective (bytesLEOfOperand_operandOfBytesLE (length_bytesLEOfOperand v))

/-! ### Either order -/

/-- Byte `k` is the byte `15 - k` of the reversed block, so it is bits `127-8k : 120-8k` in order `big` (R31). -/
theorem extractLsb'_operandOfBlock_big {block : List Byte} (h : block.length = 16) {k : Nat} (hk : k < block.length) :
    (operandOfBlock .big block).extractLsb' (120 - 8 * k) 8 = block[k] := by
  have hplace : 120 - 8 * k = 8 * (15 - k) := by omega
  have hrev : 15 - k < block.reverse.length := by simp [h]; omega
  have hback : block.length - 1 - (15 - k) = k := by omega
  rw [operandOfBlock, hplace, extractLsb'_operandOfBytesLE block.reverse hrev (by omega)]
  simp [hback]

theorem blockOfOperand_operandOfBlock (order : ByteOrder) {block : List Byte} (h : block.length = 16) :
    blockOfOperand order (operandOfBlock order block) = block := by
  cases order with
  | little => exact bytesLEOfOperand_operandOfBytesLE h
  | big =>
    have hrev : block.reverse.length = 16 := by simpa using h
    rw [operandOfBlock, blockOfOperand, bytesLEOfOperand_operandOfBytesLE hrev, List.reverse_reverse]

theorem operandOfBlock_blockOfOperand (order : ByteOrder) (v : Elem) :
    operandOfBlock order (blockOfOperand order v) = v := by
  cases order with
  | little => exact operandOfBytesLE_bytesLEOfOperand v
  | big => rw [operandOfBlock, blockOfOperand, List.reverse_reverse, operandOfBytesLE_bytesLEOfOperand]

/-- A block that reads the same both ways, one of equal bytes for example, has one operand in both orders (R31). -/
theorem operandOfBlock_of_reverse_eq {block : List Byte} (h : block.reverse = block) :
    operandOfBlock .little block = operandOfBlock .big block := by
  rw [operandOfBlock, operandOfBlock, h]

/-! ### The step at an offered beat -/

theorem decode_requestWord (a b : Elem) : decode (requestWord a b) = .gfmul a b := by
  rw [decode, fieldA_requestWord, fieldB_requestWord]

/-- With `rst = 0` and a beat offered, the step is the meaning of what the beat decodes to (R38, R91). -/
theorem step_of_request {s : State} (hrst : s.ports.rst = false) (hreq : s.ports.reqValid = true) :
    step s = exec (decode (requestWord s.ports.reqA s.ports.reqB)) s := by
  simp [step, hrst, hreq]

end Sys2Proof.Machine
end

section
/-! The statements of spec/20_memory.md, settled. -/

namespace Sys2Proof.Proofs

open Sys2Proof.Machine

/-- Settles O58: bytes are put in one below the other, and order `big` is order `little` of the reversed block. -/
theorem blockBytesByOrder : Obligations.BlockBytesByOrder := by
  refine ⟨fun block k hk hlen => ⟨?_, ?_⟩, fun order _ => blockOfOperand_operandOfBlock order,
    operandOfBlock_blockOfOperand, fun x => ?_⟩
  · exact extractLsb'_operandOfBytesLE block hk (hlen ▸ hk)
  · exact extractLsb'_operandOfBlock_big hlen hk
  · exact operandOfBlock_of_reverse_eq List.reverse_replicate

/-- Settles O28: the word's two fields are the operands on the ports, so the step runs `GFMUL` on them. -/
theorem stepRunsTheOfferedOperation : Obligations.StepRunsTheOfferedOperation := by
  intro s hrst hreq
  have hdecode := decode_requestWord s.ports.reqA s.ports.reqB
  exact ⟨hdecode, hdecode ▸ step_of_request hrst hreq⟩

end Sys2Proof.Proofs
end

section
/-! SUPPORT. Request words and their operations, and the beats that transfer at an edge (spec/30_encoding.md R45, R46,
R48). -/

namespace Sys2Proof.Machine

/-! ### The fields make the word -/

theorem requestWord_fieldA_fieldB (w : RequestWord) : requestWord (fieldA w) (fieldB w) = w := by
  apply BitVec.eq_of_getLsbD_eq
  intro i hi
  rw [getLsbD_requestWord]
  split
  · next hlow => simp [fieldB, hlow]
  · next hhigh =>
    have hback : 128 + (i - 128) = i := by omega
    have hfield : i - 128 < 128 := by omega
    simp [fieldA, hback, hfield]

theorem encode_decode (w : RequestWord) : encode (decode w) = w := requestWord_fieldA_fieldB w

theorem decode_injective : Function.Injective decode := Function.LeftInverse.injective encode_decode

theorem decode_encode (i : Instr) : decode (encode i) = i := by
  cases i with
  | gfmul a b => exact decode_requestWord a b

theorem getLsbD_fieldA (w : RequestWord) {i : Nat} (hi : i < 128) : (fieldA w).getLsbD i = w.getLsbD (128 + i) := by
  simp [fieldA, hi]

theorem getLsbD_fieldB (w : RequestWord) {i : Nat} (hi : i < 128) : (fieldB w).getLsbD i = w.getLsbD i := by
  simp [fieldB, hi]

theorem exec_goesOn (i : Instr) (s : State) : GoesOn (exec i s) := by
  cases i with
  | gfmul a b =>
    obtain ⟨-, he⟩ | ⟨-, he⟩ := exec_gfmul_cases a b s
    · exact ⟨_, he⟩
    · exact ⟨_, he⟩

/-! ### The beats that transfer at an edge -/

theorem requestTransfers_eq_true_iff (s : State) :
    s.requestTransfers = true ↔ s.ports.rst = false ∧ s.ports.reqValid = true ∧ s.reqReady = true := by
  simp [State.requestTransfers, and_assoc]

theorem responseTransfers_eq_true_iff (s : State) :
    s.responseTransfers = true ↔ s.ports.rst = false ∧ s.rspValid = true ∧ s.ports.rspReady = true := by
  simp [State.responseTransfers, and_assoc]

/-- ISSUE is the one row of R97 that lengthens the request trace, and RETIRE the one that lengthens the response trace. -/
theorem clockEdge_traces (latency : Nat) (s : State) :
    requestTrace (clockEdge latency s).trace =
      requestTrace s.trace ++ (if s.requestTransfers then [(s.ports.reqA, s.ports.reqB)] else []) ∧
    responseTrace (clockEdge latency s).trace =
      responseTrace s.trace ++ (if s.responseTransfers then [s.rspP] else []) := by
  simp only [requestTransfers_eq_true_iff, responseTransfers_eq_true_iff, reqReady_eq_true_iff, rspValid_eq_true_iff]
  obtain ⟨hrst, he⟩ | ⟨hrst, hp, hreq, he⟩ | ⟨hrst, hp, hreq, he⟩ | ⟨hrst, hp, -, he⟩ | ⟨hrst, hp, -, he⟩ |
    ⟨hrst, hp, hrsp, he⟩ | ⟨hrst, hp, hrsp, he⟩ := clockEdge_cases latency s
  · simp [he, hrst]
  · simp [he, hp, hrst, hreq]
  · simp [he, hp, hreq]
  · simp [he, hp]
  · simp [he, hp]
  · simp [he, hp, hrst, hrsp]
  · simp [he, hp, hrsp]

end Sys2Proof.Machine
end

section
/-! SUPPORT. A whole transaction under a host that waits for it (spec/41_gfmul_transaction.md R92, R98), and the host
that carries out a script (spec/30_encoding.md R52, R53). -/

namespace Sys2Proof.Machine

/-! ### BUSY counts down to EXECUTE -/

theorem NoReset.after_edge {latency n : Nat} {s : State} (h : NoReset latency (n + 1) s) :
    NoReset latency n (clockEdge latency s) := fun k hk => h (k + 1) (Nat.succ_lt_succ hk)

/-- The edges of a script's first samples are no resets when none of these samples is one. -/
theorem noReset_of_script_append {s : State} {first rest : List Ports} (hs : s.script = first ++ rest)
    (h : ∀ p ∈ first, p.rst = false) (latency : Nat) : NoReset latency first.length s := by
  intro k hk
  have hscript : (runEdges latency k s).script = first[k] :: (first.drop (k + 1) ++ rest) := by
    rw [runEdges_script, hs, List.drop_append_of_le_length hk.le, List.drop_eq_getElem_cons hk, List.cons_append]
  rw [ports_of_script_cons hscript]
  exact h _ (List.getElem_mem hk)

/-- A block in BUSY has the product of its operands after one edge more than its count, whatever the host does but
reset (R92, R97). -/
theorem runEdges_of_busy {latency : Nat} {s : State} (hp : s.phase = .busy) (hrst : NoReset latency (s.cnt + 1) s) :
    (runEdges latency (s.cnt + 1) s).phase = .done ∧
    (runEdges latency (s.cnt + 1) s).prod = some (multiply s.opA s.opB) ∧
    (runEdges latency (s.cnt + 1) s).trace = s.trace := by
  have hnow : s.ports.rst = false := hrst 0 (Nat.succ_pos _)
  induction hcnt : s.cnt generalizing s with
  | zero =>
    have hname : stepName s = .execute := by simp [stepName_of_busy hnow hp, hcnt]
    rw [runEdges_succ, runEdges_zero, clockEdge_of_execute latency hname]
    exact ⟨rfl, rfl, rfl⟩
  | succ n ih =>
    have hname : stepName s = .tick := by simp [stepName_of_busy hnow hp, hcnt]
    have hedge : clockEdge latency s = countEdge s := clockEdge_of_tick latency hname
    have hleft : (countEdge s).cnt = n := by simp [hcnt]
    rw [hcnt] at hrst
    have hnext : NoReset latency (n + 1) (countEdge s) := hedge ▸ hrst.after_edge
    rw [runEdges_succ, hedge]
    exact ih (s := countEdge s) hp (hleft ▸ hnext) (hnext 0 (Nat.succ_pos _)) hleft

/-! ### A whole transaction, the host's inputs given by the script -/

/-- From BUSY, a host that does not reset while the count runs out and then takes the response gets the product of the
latched operands, and the block is in IDLE. -/
theorem runEdges_wait_and_take (latency : Nat) {s : State} {take : Ports} {waits rest : List Ports}
    (hp : s.phase = .busy) (hcnt : s.cnt + 1 = waits.length) (hs : s.script = waits ++ take :: rest)
    (hwaits : ∀ p ∈ waits, p.rst = false) (htake : take.rst = false) (hrsp : take.rspReady = true) :
    (runEdges latency (waits.length + 1) s).phase = .idle ∧ (runEdges latency (waits.length + 1) s).prod = none ∧
    (runEdges latency (waits.length + 1) s).script = rest ∧
    (runEdges latency (waits.length + 1) s).trace = .responded (multiply s.opA s.opB) :: s.trace := by
  have hnoreset : NoReset latency (s.cnt + 1) s := hcnt ▸ noReset_of_script_append hs hwaits latency
  obtain ⟨hdone, hprod, htrace⟩ := runEdges_of_busy hp hnoreset
  rw [hcnt] at hdone hprod htrace
  have hscript : (runEdges latency waits.length s).script = take :: rest := by
    rw [runEdges_script, hs, List.drop_left]
  have hports : (runEdges latency waits.length s).ports = take := ports_of_script_cons hscript
  have hretire : stepName (runEdges latency waits.length s) = .retire :=
    stepName_eq_retire_iff.mpr ⟨hports ▸ htake, hdone, hports ▸ hrsp⟩
  rw [runEdges_succ_last, clockEdge_of_retire latency hretire]
  exact ⟨rfl, rfl, by simp [hscript], by simp [rspP_of_done hdone hprod, htrace]⟩

/-- From IDLE, a host that offers a beat, does not reset for LATENCY edges and then takes the response has exactly the
product of the beat's operands, and the block is in IDLE again (R90, R98). -/
theorem runEdges_transaction {latency : Nat} (hlat : 1 ≤ latency) {s : State} {offer take : Ports}
    {waits rest : List Ports} (hp : s.phase = .idle) (hs : s.script = offer :: (waits ++ take :: rest))
    (hoffer : offer.rst = false) (hreq : offer.reqValid = true) (hlen : waits.length = latency)
    (hwaits : ∀ p ∈ waits, p.rst = false) (htake : take.rst = false) (hrsp : take.rspReady = true) :
    (runEdges latency (latency + 2) s).phase = .idle ∧ (runEdges latency (latency + 2) s).prod = none ∧
    (runEdges latency (latency + 2) s).script = rest ∧
    (runEdges latency (latency + 2) s).trace =
      .responded (multiply offer.reqA offer.reqB) :: .issued offer.reqA offer.reqB :: s.trace := by
  have hports : s.ports = offer := ports_of_script_cons hs
  have hname : stepName s = .issue := by simp [stepName_of_idle, hports, hoffer, hp, hreq]
  have hissue : clockEdge latency s = issueEdge latency offer.reqA offer.reqB s :=
    hports ▸ clockEdge_of_issue latency hname
  have hcnt : latency - 1 + 1 = waits.length := by omega
  have hscript : (issueEdge latency offer.reqA offer.reqB s).script = waits ++ take :: rest := by simp [hs]
  have hrest := runEdges_wait_and_take latency rfl hcnt hscript hwaits htake hrsp
  rw [runEdges_succ, hissue]
  simpa [hlen] using hrest

/-! ### The host that carries out a script -/

theorem length_transactionPorts (latency : Nat) (a b : Elem) : (transactionPorts latency a b).length = latency + 2 := by
  simp [transactionPorts]

theorem transactionPorts_append (latency : Nat) (a b : Elem) (rest : List Ports) :
    transactionPorts latency a b ++ rest =
      offerBeat a b :: (List.replicate latency (waitBeat a b) ++ takeBeat a b :: rest) := by
  simp [transactionPorts]

/-- One transaction of the scripting host gives `MULTIPLY` and leaves the block in IDLE, the inputs to come untouched. -/
theorem transact_spec {latency : Nat} (hlat : 1 ≤ latency) (a b : Elem) {s : State} (hp : s.phase = .idle) :
    (transact latency a b s).1 = some (multiply a b) ∧
    (transact latency a b s).2.phase = .idle ∧ (transact latency a b s).2.script = s.script := by
  have hwaits : ∀ p ∈ List.replicate latency (waitBeat a b), p.rst = false :=
    fun p hmem => List.eq_of_mem_replicate hmem ▸ rfl
  obtain ⟨hidle, -, hscript, htrace⟩ := runEdges_transaction hlat
    (s := { s with script := transactionPorts latency a b ++ s.script })
    hp (transactionPorts_append ..) rfl rfl List.length_replicate hwaits rfl rfl
  rw [← length_transactionPorts latency a b] at hidle hscript htrace
  exact ⟨congrArg lastResponse htrace, hidle, hscript⟩

theorem transactInto_eq {latency : Nat} (hlat : 1 ≤ latency) (d : Nat) (a b : Elem) (h : HostVars) {s : State}
    (hp : s.phase = .idle) :
    transactInto latency d a b h s = some (h.bind d (multiply a b), (transact latency a b s).2) := by
  have hpair : transact latency a b s = (some (multiply a b), (transact latency a b s).2) :=
    Prod.ext (transact_spec hlat a b hp).1 rfl
  rw [transactInto, hpair]

/-- A statement carried out by host and block does what it means by the arithmetic of the field, fails where that fails,
and leaves the block in IDLE (R52). -/
theorem runOp_spec {latency : Nat} (hlat : 1 ≤ latency) (h : HostVars) {s : State} (hp : s.phase = .idle)
    (op : ScriptOp) :
    ∃ s', s'.phase = .idle ∧ s'.script = s.script ∧ runOp latency h s op = (evalOp h op).map fun h' => (h', s') := by
  cases op with
  | gfmul d x y =>
    cases hx : h.value x with
    | none => exact ⟨s, hp, rfl, by simp [runOp, evalOp, hx]⟩
    | some a =>
      cases hy : h.value y with
      | none => exact ⟨s, hp, rfl, by simp [runOp, evalOp, hx, hy]⟩
      | some b =>
        obtain ⟨-, hidle, hscript⟩ := transact_spec hlat a b hp
        exact ⟨_, hidle, hscript, by simp [runOp, evalOp, hx, hy, transactInto_eq hlat d a b h hp]⟩
  | gfsqr d x =>
    cases hx : h.value x with
    | none => exact ⟨s, hp, rfl, by simp [runOp, evalOp, hx]⟩
    | some a =>
      obtain ⟨-, hidle, hscript⟩ := transact_spec hlat a a hp
      exact ⟨_, hidle, hscript, by simp [runOp, evalOp, hx, transactInto_eq hlat d a a h hp]⟩
  | reset => exact ⟨drive latency [resetBeat] s, rfl, rfl, rfl⟩
  | hostXor d x y => exact ⟨s, hp, rfl, rfl⟩
  | hostLet d x => exact ⟨s, hp, rfl, rfl⟩
  | hostExpect d v => exact ⟨s, hp, rfl, rfl⟩

/-- A whole script does, statement by statement (R52). -/
theorem runScript_spec {latency : Nat} (hlat : 1 ≤ latency) (ops : List ScriptOp) (h : HostVars) {s : State}
    (hp : s.phase = .idle) :
    ∃ s', s'.phase = .idle ∧ s'.script = s.script ∧
      runScript latency ops h s = (evalScript ops h).map fun h' => (h', s') := by
  induction ops generalizing h s with
  | nil => exact ⟨s, hp, rfl, rfl⟩
  | cons op ops ih =>
    obtain ⟨t, htidle, htscript, hop⟩ := runOp_spec hlat h hp op
    cases hmeans : evalOp h op with
    | none => exact ⟨s, hp, rfl, by simp [runScript, evalScript, hop, hmeans]⟩
    | some h' =>
      obtain ⟨u, huidle, huscript, hrest⟩ := ih h' htidle
      exact ⟨u, huidle, huscript.trans htscript, by simp [runScript, evalScript, hop, hmeans, hrest]⟩

/-- `d <- GFSQR x` is `d <- GFMUL x, x`, carried out on the block and in its meaning (R53). -/
theorem runOp_gfsqr (latency d : Nat) (x : ScriptArg) (h : HostVars) (s : State) :
    runOp latency h s (.gfsqr d x) = runOp latency h s (.gfmul d x x) := by
  cases hx : h.value x <;> simp [runOp, hx]

theorem evalOp_gfsqr (d : Nat) (x : ScriptArg) (h : HostVars) : evalOp h (.gfsqr d x) = evalOp h (.gfmul d x x) := by
  cases hx : h.value x <;> simp [evalOp, hx]

end Sys2Proof.Machine
end

section
/-! SUPPORT. Values as polynomials over GF(2) (spec/30_encoding.md R40 to R42): the coefficients of `poly v` are the bits
of `v`, so that the 128-bit values are the polynomials of degree below that of `f(x)`, its residues. -/

namespace Sys2Proof.Machine

open Polynomial

/-! ### Coefficients are bits -/

theorem coeff_poly {n : Nat} (v : BitVec n) (i : Nat) : (poly v).coeff i = if v.getLsbD i then 1 else 0 := by
  have hterm (k : Nat) : (if v.getLsbD k then X ^ k else 0 : (ZMod 2)[X]).coeff i =
      if k = i then (if v.getLsbD i then 1 else 0) else 0 := by
    by_cases hki : k = i
    · subst hki
      cases v.getLsbD k <;> simp
    · cases v.getLsbD k <;> simp [coeff_X_pow, hki, Ne.symm hki]
  rw [poly, finsetSum_coeff, Finset.sum_congr rfl fun k _ => hterm k, Finset.sum_ite_eq']
  by_cases hi : i < n
  · simp [hi]
  · simp [hi, BitVec.getLsbD_of_ge v i (not_lt.mp hi)]

theorem coeff_poly_eq_one_iff {n : Nat} (v : BitVec n) (i : Nat) : (poly v).coeff i = 1 ↔ v.getLsbD i = true := by
  rw [coeff_poly]
  cases v.getLsbD i <;> simp

theorem poly_injective {n : Nat} : Function.Injective (poly (n := n)) := by
  intro v w h
  apply BitVec.eq_of_getLsbD_eq
  intro i _
  rw [Bool.eq_iff_iff, ← coeff_poly_eq_one_iff, ← coeff_poly_eq_one_iff, h]

theorem degree_poly_lt {n : Nat} (v : BitVec n) : (poly v).degree < n := by
  rw [degree_lt_iff_coeff_zero]
  intro i hi
  simp [coeff_poly, BitVec.getLsbD_of_ge v i hi]

/-- Every polynomial of degree below `n` is that of an `n`-bit value. -/
theorem exists_poly_eq {n : Nat} {q : (ZMod 2)[X]} (hq : q.degree < n) : ∃ v : BitVec n, poly v = q := by
  refine ⟨BitVec.ofFnLE fun i => decide (q.coeff i = 1), ext fun i => ?_⟩
  rw [coeff_poly]
  by_cases hi : i < n
  · have hbit : q.coeff i = 0 ∨ q.coeff i = 1 := by
      generalize q.coeff i = c
      revert c
      decide
    obtain h | h := hbit <;> simp [hi, h]
  · rw [BitVec.getLsbD_of_ge _ i (not_lt.mp hi), (degree_lt_iff_coeff_zero q n).mp hq i (not_lt.mp hi)]
    rfl

/-! ### Sums and powers of `x` -/

theorem poly_zero {n : Nat} : poly (0#n) = 0 := ext fun i => by simp [coeff_poly]

theorem poly_xor {n : Nat} (v w : BitVec n) : poly (v ^^^ w) = poly v + poly w := by
  have htwo : (1 : ZMod 2) + 1 = 0 := by decide
  refine ext fun i => ?_
  rw [coeff_add, coeff_poly, coeff_poly, coeff_poly, BitVec.getLsbD_xor]
  cases v.getLsbD i <;> cases w.getLsbD i <;> simp [htwo]

theorem poly_twoPow {n k : Nat} (hk : k < n) : poly (BitVec.twoPow n k) = X ^ k := by
  refine ext fun i => ?_
  by_cases hik : i = k
  · simp [coeff_poly, hik, hk]
  · simp [coeff_poly, coeff_X_pow, hik, Ne.symm hik]

/-! ### The constants -/

theorem poly_elemOne : poly elemOne = 1 := by
  have hbits : elemOne = BitVec.twoPow 128 0 := rfl
  rw [hbits, poly_twoPow (by decide), pow_zero]

theorem poly_elemX : poly elemX = X := by
  have hbits : elemX = BitVec.twoPow 128 1 := rfl
  rw [hbits, poly_twoPow (by decide), pow_one]

theorem poly_elemTop : poly elemTop = X ^ 127 := by
  have hbits : elemTop = BitVec.twoPow 128 127 := rfl
  rw [hbits, poly_twoPow (by decide)]

theorem poly_rpoly : poly rpoly = X ^ 7 + X ^ 2 + X + 1 := by
  have hbits : rpoly = BitVec.twoPow 128 7 ^^^ BitVec.twoPow 128 2 ^^^ BitVec.twoPow 128 1 ^^^ BitVec.twoPow 128 0 := by
    decide +kernel
  simp [hbits, poly_xor, poly_twoPow]

theorem poly_fpoly : poly fpoly = fieldPoly := by
  have hbits : fpoly = BitVec.twoPow 129 128 ^^^ BitVec.twoPow 129 7 ^^^ BitVec.twoPow 129 2 ^^^ BitVec.twoPow 129 1 ^^^
      BitVec.twoPow 129 0 := by
    decide +kernel
  unfold fieldPoly
  simp [hbits, poly_xor, poly_twoPow]

/-! ### Residues modulo `f(x)` -/

/-- `f(x)` is its leading term and `RPOLY` (R42). -/
theorem fieldPoly_eq : fieldPoly = X ^ 128 + poly rpoly := by
  unfold fieldPoly
  rw [poly_rpoly]
  ring

theorem degree_fieldPoly : fieldPoly.degree = 128 := by
  have hlow : (poly rpoly).degree < (X ^ 128 : (ZMod 2)[X]).degree := by
    rw [degree_X_pow]
    exact degree_poly_lt rpoly
  rw [fieldPoly_eq, degree_add_eq_left_of_degree_lt hlow, degree_X_pow]
  rfl

theorem fieldPoly_ne_zero : fieldPoly ≠ 0 := by
  intro h
  simpa [h] using degree_fieldPoly

/-- A 128-bit value is its own residue (R41). -/
theorem poly_mod_fieldPoly (v : Elem) : poly v % fieldPoly = poly v := by
  rw [mod_eq_self_iff fieldPoly_ne_zero, degree_fieldPoly]
  exact degree_poly_lt v

theorem exists_poly_eq_mod (q : (ZMod 2)[X]) : ∃ v : Elem, poly v = q % fieldPoly := by
  apply exists_poly_eq
  exact (degree_mod_lt q fieldPoly_ne_zero).trans_eq degree_fieldPoly

/-- `RPOLY` is `x^128` in the field (R42): the two differ by `f(x)`. -/
theorem poly_rpoly_eq_mod : poly rpoly = X ^ 128 % fieldPoly := by
  have hdiff : (X ^ 128 : (ZMod 2)[X]) = fieldPoly + poly rpoly := by
    rw [fieldPoly_eq, add_assoc, ← poly_xor, BitVec.xor_self, poly_zero, add_zero]
  rw [hdiff, add_mod, EuclideanDomain.mod_self, zero_add, poly_mod_fieldPoly]

/-! ### Multiplication by `ONE` -/

/-- One bit set in `b`: the product is that one shifted copy of `a` (R61). -/
theorem clmul_twoPow (a : Elem) {k : Nat} (hk : k < 128) : clmul a (BitVec.twoPow 128 k) = shiftedCopy a k := by
  have hbits : (fun i => (BitVec.twoPow 128 k).getLsbD i) = fun i => i == k := by
    funext i
    simp [BitVec.getLsbD_twoPow, hk, eq_comm, Bool.beq_eq_decide_eq]
  have hone : (List.range 128).filter (fun i => i == k) = [k] := by
    rw [List.filter_beq, List.count_eq_one_of_mem List.nodup_range (List.mem_range.mpr hk), List.replicate_one]
  rw [clmul, hbits, hone]
  exact BitVec.zero_xor

theorem clmul_elemOne (a : Elem) : clmul a elemOne = a.setWidth 256 :=
  (clmul_twoPow a (Nat.succ_pos 127)).trans (BitVec.shiftLeft_zero _)

theorem hi_setWidth (a : Elem) : hi (a.setWidth 256) = 0 :=
  hi_eq_zero_of_getLsbD fun i hle => by simp [BitVec.getLsbD_of_ge a i hle]

theorem lo_setWidth (a : Elem) : lo (a.setWidth 256) = a := by
  apply BitVec.eq_of_getLsbD_eq
  intro i hi
  have hwidth : i < 256 := by omega
  simp [lo, hi, hwidth]

/-- A value with nothing above bit 127 is its own remainder (R63). -/
theorem reduce_of_hi_eq_zero {c : Product} (h : hi c = 0) : reduce c = lo c := by
  rw [← reduceFold_eq_reduce, reduceFold_of_hi_eq_zero h]

theorem multiply_elemOne (a : Elem) : multiply a elemOne = a := by
  rw [multiply, clmul_elemOne, reduce_of_hi_eq_zero (hi_setWidth a), lo_setWidth]

end Sys2Proof.Machine
end

section
/-! The statements of spec/30_encoding.md, settled. -/

namespace Sys2Proof.Proofs

open Sys2Proof.Machine

/-- Settles O1: a word is the beat of what it decodes to, so decoding loses no bit. -/
theorem decodeTakesEveryBitOfTheBeat : Obligations.DecodeTakesEveryBitOfTheBeat := by
  refine ⟨fun w => ⟨fieldA w, fieldB w, rfl, fun i hi => ?_⟩, fun _ _ h => decode_injective h, decode_encode⟩
  exact ⟨getLsbD_fieldA w hi, getLsbD_fieldB w hi⟩

/-- Settles O7: values are polynomials of degree below that of `f(x)`, which are their own residues. -/
theorem elementsAreTheResidues : Obligations.ElementsAreTheResidues := by
  refine ⟨degree_poly_lt, fun v w h => poly_injective ?_, exists_poly_eq_mod, fun a b s => exec_goesOn _ s⟩
  rwa [poly_mod_fieldPoly, poly_mod_fieldPoly] at h

/-- Settles O57: the meaning and the run of a script go together, statement by statement. -/
theorem scriptsMeanFieldArithmetic : Obligations.ScriptsMeanFieldArithmetic := by
  intro latency ops h s hlat hp
  obtain ⟨t, hidle, hscript, hrun⟩ := runScript_spec hlat ops h hp
  rw [hrun]
  refine ⟨by simp [Function.comp_def], fun h' s' hs' => ?_⟩
  obtain ⟨_, -, hpair⟩ := Option.map_eq_some_iff.mp hs'
  obtain rfl : t = s' := (Prod.mk.inj hpair).2
  exact ⟨hidle, hscript⟩

/-- Settles O60: each transaction gives `MULTIPLY` of its operands, which is what either datapath computes. -/
theorem hostTransactionGivesProduct : Obligations.HostTransactionGivesProduct := by
  intro latency latency' impl a b s t hlat hlat' hs ht
  obtain ⟨hvalue, hidle, hscript⟩ := transact_spec hlat a b hs
  obtain ⟨hvalue', -, -⟩ := transact_spec hlat' a b ht
  rw [datapath_eq_multiply]
  exact ⟨hvalue, hvalue.trans hvalue'.symm, hidle, hscript⟩

/-- Settles O6. -/
theorem gfsqrIsOneGfmulBeat : Obligations.GfsqrIsOneGfmulBeat :=
  ⟨fun _ => ⟨rfl, rfl⟩, runOp_gfsqr, evalOp_gfsqr⟩

/-- Settles O8: each constant is the sum of the powers of `x` at its bits, and `ONE` selects one unshifted copy. -/
theorem constantsAreTheirPolynomials : Obligations.ConstantsAreTheirPolynomials :=
  ⟨poly_zero, poly_elemOne, poly_elemX, poly_elemTop, poly_rpoly, poly_rpoly_eq_mod, poly_fpoly,
    rfl, rfl, rfl, rfl, rfl, rfl, fun a => ⟨BitVec.xor_zero, multiply_elemOne a⟩⟩

/-- Settles O43: the handshakes are the guards of ISSUE and RETIRE, the rows that add to the traces. -/
theorem beatsTransferOnHandshake : Obligations.BeatsTransferOnHandshake := fun s =>
  ⟨requestTransfers_eq_true_iff s, responseTransfers_eq_true_iff s, _, step_eq_clockEdge s,
    clockEdge_traces Config.latency s⟩

end Sys2Proof.Proofs
end

section
/-! SUPPORT. The stages of the field multiplication as polynomials over GF(2) (spec/40_field_multiply.md R60 to R63):
the carry-less product is the product of the polynomials, and long division leaves the remainder modulo `f(x)`. -/

namespace Sys2Proof.Machine

open Polynomial

/-! ### Widening, shifts and masked sums -/

theorem poly_setWidth {n m : Nat} (h : n ≤ m) (v : BitVec n) : poly (v.setWidth m) = poly v := by
  refine ext fun i => ?_
  rw [coeff_poly, coeff_poly, BitVec.getLsbD_setWidth]
  by_cases hi : i < m
  · simp [hi]
  · simp [hi, BitVec.getLsbD_of_ge v i (by omega)]

/-- A shift that pushes no bit past the width is multiplication by a power of `x`. -/
theorem poly_setWidth_shiftLeft {n m k : Nat} (h : n + k ≤ m) (v : BitVec n) :
    poly (v.setWidth m <<< k) = X ^ k * poly v := by
  refine ext fun i => ?_
  rw [coeff_poly, coeff_X_pow_mul', coeff_poly, BitVec.getLsbD_shiftLeft, BitVec.getLsbD_setWidth]
  by_cases hki : k ≤ i
  · by_cases hi : i < m
    · simp [hki, hi, show ¬ i < k by omega, show i - k < m by omega]
    · simp [hki, hi, BitVec.getLsbD_of_ge v (i - k) (by omega)]
  · simp [hki, show i < k by omega]

theorem poly_shiftedCopy (a : Elem) {k : Nat} (hk : k < 128) : poly (shiftedCopy a k) = X ^ k * poly a :=
  poly_setWidth_shiftLeft (by omega) a

theorem poly_shiftedFpoly {k : Nat} (hk : k < 128) : poly (shiftedFpoly k) = X ^ k * fieldPoly := by
  rw [shiftedFpoly, poly_setWidth_shiftLeft (by omega), poly_fpoly]

/-- The XOR of the terms that a mask selects is the sum of their polynomials. -/
theorem poly_foldl_xor {m : Nat} (mask : Nat → Bool) (term : Nat → BitVec m) (n : Nat) :
    poly (((List.range n).filter mask).foldl (fun acc i => acc ^^^ term i) 0) =
      ∑ i ∈ Finset.range n, if mask i then poly (term i) else 0 := by
  induction n with
  | zero => exact poly_zero
  | succ n ih =>
    rw [List.range_succ, List.filter_append, List.foldl_append, Finset.sum_range_succ, ← ih]
    cases hn : mask n <;> simp [hn, poly_xor]

/-- The schoolbook sum of shifted copies is the product (R60). -/
theorem sum_shifted_eq_mul {n : Nat} (b : BitVec n) (p : (ZMod 2)[X]) :
    (∑ i ∈ Finset.range n, if b.getLsbD i then X ^ i * p else 0) = p * poly b := by
  rw [poly, Finset.mul_sum]
  exact Finset.sum_congr rfl fun i _ => by cases b.getLsbD i <;> simp [mul_comm]

/-! ### The carry-less product -/

theorem poly_clmul (a b : Elem) : poly (clmul a b) = poly a * poly b := by
  rw [clmul, poly_foldl_xor, ← sum_shifted_eq_mul]
  exact Finset.sum_congr rfl fun i hi => by rw [poly_shiftedCopy a (Finset.mem_range.mp hi)]

theorem poly_clmul64 (u v : BitVec 64) : poly (clmul64 u v) = poly u * poly v := by
  rw [clmul64, poly_foldl_xor, ← sum_shifted_eq_mul]
  refine Finset.sum_congr rfl fun i hi => ?_
  have hi64 : i < 64 := Finset.mem_range.mp hi
  rw [poly_setWidth_shiftLeft (by omega)]

theorem clmul_comm (a b : Elem) : clmul a b = clmul b a :=
  poly_injective (by rw [poly_clmul, poly_clmul, mul_comm])

theorem clmul_xor_left (a a' b : Elem) : clmul (a ^^^ a') b = clmul a b ^^^ clmul a' b :=
  poly_injective (by simp only [poly_clmul, poly_xor, add_mul])

theorem clmul_xor_right (a b b' : Elem) : clmul a (b ^^^ b') = clmul a b ^^^ clmul a b' := by
  simp only [clmul_comm a, clmul_xor_left]

theorem clmul_elemZero (a : Elem) : clmul a elemZero = 0 :=
  poly_injective (by rw [poly_clmul]; exact (congrArg _ poly_zero).trans ((mul_zero _).trans poly_zero.symm))

/-! ### The halves of a value -/

/-- A value cut at bit `n` is its upper part times `x^n` plus its lower part. -/
theorem poly_eq_extractLsb' {n m w : Nat} (h : n + m = w) (v : BitVec w) :
    poly v = X ^ n * poly (v.extractLsb' n m) + poly (v.extractLsb' 0 n) := by
  refine ext fun i => ?_
  simp only [coeff_add, coeff_X_pow_mul', coeff_poly, BitVec.getLsbD_extractLsb', zero_add]
  by_cases hni : n ≤ i
  · by_cases hi : i < w
    · simp [hni, show i - n < m by omega, show ¬ i < n by omega]
    · simp [hni, show ¬ i - n < m by omega, show ¬ i < n by omega, BitVec.getLsbD_of_ge v i (by omega)]
  · simp [hni, show i < n by omega]

theorem poly_eq_hi_lo (c : Product) : poly c = X ^ 128 * poly (hi c) + poly (lo c) := by
  rw [hi, lo, ← poly_eq_extractLsb' (by decide)]

theorem poly_eq_limbs (a : Elem) : poly a = X ^ 64 * poly (limb1 a) + poly (limb0 a) := by
  rw [limb1, limb0, ← poly_eq_extractLsb' (by decide)]

theorem hi_append_lo (c : Product) : hi c ++ lo c = c := requestWord_fieldA_fieldB c

theorem getLsbD_hi (c : Product) {i : Nat} (hlt : i < 128) : (hi c).getLsbD i = c.getLsbD (128 + i) := getLsbD_fieldA c hlt

theorem getLsbD_lo (c : Product) {i : Nat} (hlt : i < 128) : (lo c).getLsbD i = c.getLsbD i := getLsbD_fieldB c hlt

/-- `c = (HI(c) << 128) ^ LO(c)` (R62). -/
theorem hi_shiftLeft_xor_lo (c : Product) : ((hi c).setWidth 256 <<< 128) ^^^ (lo c).setWidth 256 = c :=
  poly_injective (by
    rw [poly_xor, poly_setWidth_shiftLeft (by decide), poly_setWidth (by decide), ← poly_eq_hi_lo])

/-! ### The carry-less product from 64-bit products -/

theorem clmulFour_eq_clmul (a b : Elem) : clmulFour a b = clmul a b := by
  apply poly_injective
  rw [clmulFour, poly_clmul, poly_eq_limbs a, poly_eq_limbs b]
  simp only [poly_xor, poly_setWidth_shiftLeft (show 128 + 64 ≤ 256 by decide),
    poly_setWidth_shiftLeft (show 128 + 128 ≤ 256 by decide), poly_setWidth (show 128 ≤ 256 by decide), poly_clmul64]
  ring

/-- The middle term of the form of three products is that of the form of four, since 2 = 0. -/
theorem clmulThree_eq_clmul (a b : Elem) : clmulThree a b = clmul a b := by
  have hmiddle : clmul64 (limb0 a ^^^ limb1 a) (limb0 b ^^^ limb1 b) ^^^ clmul64 (limb0 a) (limb0 b) ^^^
      clmul64 (limb1 a) (limb1 b) = clmul64 (limb0 a) (limb1 b) ^^^ clmul64 (limb1 a) (limb0 b) := by
    apply poly_injective
    simp only [poly_xor, poly_clmul64]
    have htwo : (2 : (ZMod 2)[X]) = 0 := CharTwo.two_eq_zero
    linear_combination (poly (limb0 a) * poly (limb0 b) + poly (limb1 a) * poly (limb1 b)) * htwo
  rw [← clmulFour_eq_clmul, clmulFour, ← hmiddle, clmulThree]

/-! ### The remainder -/

theorem mul_fieldPoly_mod (p : (ZMod 2)[X]) : p * fieldPoly % fieldPoly = 0 := by
  rw [mul_mod, EuclideanDomain.mod_self, mul_zero, EuclideanDomain.zero_mod]

/-- A pass subtracts a multiple of `f(x)` or nothing. -/
theorem poly_reduceLoop_mod {n : Nat} (hn : n ≤ 128) (c : Product) :
    poly (reduceLoop n c) % fieldPoly = poly c % fieldPoly := by
  induction n generalizing c with
  | zero => rfl
  | succ n ih =>
    rw [reduceLoop, ih (by omega)]
    split
    · rw [poly_xor, poly_shiftedFpoly (by omega), add_mod, mul_fieldPoly_mod, add_zero]
    · rfl

/-- R63: `REDUCE` is the remainder on division by `f(x)`. -/
theorem poly_reduce (c : Product) : poly (reduce c) = poly c % fieldPoly := by
  have hlow : poly (reduce c) = poly (reduceLoop 128 c) := by
    rw [poly_eq_hi_lo (reduceLoop 128 c), hi_reduceLoop_all, BitVec.ofNat_eq_ofNat, poly_zero, mul_zero, zero_add, reduce]
  rw [← poly_mod_fieldPoly (reduce c), hlow, poly_reduceLoop_mod le_rfl]

theorem poly_multiply (a b : Elem) : poly (multiply a b) = poly a * poly b % fieldPoly := by
  rw [multiply, poly_reduce, poly_clmul]

theorem reduce_xor (c d : Product) : reduce (c ^^^ d) = reduce c ^^^ reduce d := by
  simp only [← reduceFold_eq_reduce, reduceFold_xor]

end Sys2Proof.Machine
end

section
/-! SUPPORT. The field itself (spec/40_field_multiply.md R65 to R79): sending a value to the residue class of its
polynomial turns XOR and `MULTIPLY` into the sum and the product of GF(2)[x] / f(x), and loses nothing. -/

namespace Sys2Proof.Machine

open Polynomial

/-- The residue class modulo `f(x)` that a value stands for (R41). -/
noncomputable def residue (v : Elem) : AdjoinRoot fieldPoly := AdjoinRoot.mk fieldPoly (poly v)

theorem mk_mod (f p : (ZMod 2)[X]) : AdjoinRoot.mk f (p % f) = AdjoinRoot.mk f p := by
  rw [EuclideanDomain.mod_eq_sub_mul_div, map_sub, map_mul, AdjoinRoot.mk_self, zero_mul, sub_zero]

/-- A residue class determines the remainder. -/
theorem mod_eq_mod_of_mk_eq_mk {f p q : (ZMod 2)[X]} (h : AdjoinRoot.mk f p = AdjoinRoot.mk f q) : p % f = q % f :=
  mod_eq_of_dvd_sub (AdjoinRoot.mk_eq_mk.mp h)

theorem residue_injective : Function.Injective residue := by
  intro v w h
  apply poly_injective
  rw [← poly_mod_fieldPoly v, ← poly_mod_fieldPoly w, mod_eq_mod_of_mk_eq_mk h]

theorem residue_surjective : Function.Surjective residue := by
  intro r
  obtain ⟨p, rfl⟩ := AdjoinRoot.mk_surjective r
  obtain ⟨v, hv⟩ := exists_poly_eq_mod p
  refine ⟨v, ?_⟩
  rw [residue, hv, mk_mod]

@[simp] theorem residue_zero : residue 0#128 = 0 := by rw [residue, poly_zero, map_zero]

@[simp] theorem residue_elemZero : residue elemZero = 0 := residue_zero

@[simp] theorem residue_elemOne : residue elemOne = 1 := by rw [residue, poly_elemOne, map_one]

@[simp] theorem residue_elemX : residue elemX = AdjoinRoot.root fieldPoly := by
  rw [residue, poly_elemX, AdjoinRoot.mk_X]

@[simp] theorem residue_xor (v w : Elem) : residue (v ^^^ w) = residue v + residue w := by
  rw [residue, poly_xor, map_add, residue, residue]

theorem residue_reduce (c : Product) : residue (reduce c) = AdjoinRoot.mk fieldPoly (poly c) := by
  rw [residue, poly_reduce, mk_mod]

@[simp] theorem residue_multiply (a b : Elem) : residue (multiply a b) = residue a * residue b := by
  rw [multiply, residue_reduce, poly_clmul, map_mul, residue, residue]

theorem residue_eq_zero_iff {v : Elem} : residue v = 0 ↔ v = elemZero := by
  rw [← residue_elemZero, residue_injective.eq_iff]

/-! ### The laws of the field -/

theorem multiply_comm (a b : Elem) : multiply a b = multiply b a := by rw [multiply, clmul_comm, multiply]

theorem multiply_assoc (a b c : Elem) : multiply (multiply a b) c = multiply a (multiply b c) :=
  residue_injective (by simp only [residue_multiply, mul_assoc])

theorem elemOne_multiply (a : Elem) : multiply elemOne a = a := by rw [multiply_comm, multiply_elemOne]

theorem multiply_elemZero (a : Elem) : multiply a elemZero = elemZero := residue_injective (by simp)

theorem elemZero_multiply (a : Elem) : multiply elemZero a = elemZero := by rw [multiply_comm, multiply_elemZero]

theorem multiply_xor_left (a a' b : Elem) : multiply (a ^^^ a') b = multiply a b ^^^ multiply a' b := by
  simp only [multiply, clmul_xor_left, reduce_xor]

theorem multiply_xor_right (a b b' : Elem) : multiply a (b ^^^ b') = multiply a b ^^^ multiply a b' := by
  simp only [multiply, clmul_xor_right, reduce_xor]

theorem multiply_self_xor (a b : Elem) :
    multiply (a ^^^ b) (a ^^^ b) = multiply a a ^^^ multiply b b := by
  rw [multiply_xor_left, multiply_xor_right, multiply_xor_right, multiply_comm b a, BitVec.xor_assoc,
    ← BitVec.xor_assoc (multiply a b), BitVec.xor_self, BitVec.zero_xor]

/-! ### Multiplication by powers of `x` -/

/-- Shifting left by one is multiplication by `x`, less the bit shifted out. -/
theorem X_mul_poly (v : Elem) : X * poly v = poly (v <<< 1) + if v.getLsbD 127 then X ^ 128 else 0 := by
  have hout : (if v.getLsbD 127 then X ^ 128 else 0 : (ZMod 2)[X]) = C (if v.getLsbD 127 then 1 else 0) * X ^ 128 := by
    cases v.getLsbD 127 <;> simp
  rw [hout]
  refine ext fun i => ?_
  rw [coeff_add, coeff_C_mul_X_pow, coeff_poly, BitVec.getLsbD_shiftLeft]
  cases i with
  | zero => simp
  | succ i =>
    rw [coeff_X_mul, coeff_poly]
    obtain hlow | rfl | habove : i < 127 ∨ i = 127 ∨ 127 < i := by omega
    · simp [show i + 1 < 128 by omega, hlow.ne]
    · simp
    · simp [habove.ne', BitVec.getLsbD_of_ge v i habove]

/-- The bit that `XTIME` shifts out is `x^128`, which is `RPOLY` in the field (R78). -/
@[simp] theorem residue_xtime (v : Elem) : residue (xtime v) = AdjoinRoot.root fieldPoly * residue v := by
  have hrpoly : residue rpoly = AdjoinRoot.mk fieldPoly (X ^ 128) := by
    rw [residue, poly_rpoly_eq_mod, mk_mod]
  have hshift : AdjoinRoot.root fieldPoly * residue v =
      residue (v <<< 1) + AdjoinRoot.mk fieldPoly (if v.getLsbD 127 then X ^ 128 else 0) := by
    rw [← AdjoinRoot.mk_X, residue, residue, ← map_mul, X_mul_poly, map_add]
  rw [xtime, residue_xor, and_repBits, hshift]
  cases v.getLsbD 127 <;> simp [hrpoly]

theorem multiply_elemX (v : Elem) : multiply v elemX = xtime v :=
  residue_injective (by rw [residue_multiply, residue_elemX, residue_xtime, mul_comm])

@[simp] theorem residue_xtimes (k : Nat) (v : Elem) :
    residue (xtimes k v) = AdjoinRoot.root fieldPoly ^ k * residue v := by
  induction k with
  | zero => rw [xtimes, pow_zero, one_mul]
  | succ k ih => rw [xtimes, residue_xtime, ih, pow_succ', mul_assoc]

@[simp] theorem residue_shiftLeft_one {k : Nat} (hk : k < 128) :
    residue (1#128 <<< k) = AdjoinRoot.root fieldPoly ^ k := by
  rw [residue, ← BitVec.twoPow_eq, poly_twoPow hk, map_pow, AdjoinRoot.mk_X]

theorem multiply_shiftLeft_one (a : Elem) {k : Nat} (hk : k < 128) : multiply a (1#128 <<< k) = xtimes k a :=
  residue_injective (by rw [residue_multiply, residue_shiftLeft_one hk, residue_xtimes, mul_comm])

theorem xtimes_elemOne {k : Nat} (hk : k < 128) : xtimes k elemOne = 1#128 <<< k := by
  rw [← multiply_shiftLeft_one elemOne hk, elemOne_multiply]

theorem fieldPow_elemX (k : Nat) : fieldPow elemX k = xtimes k elemOne := by
  induction k with
  | zero => rfl
  | succ k ih => rw [fieldPow, ih, xtimes, multiply_elemX]

end Sys2Proof.Machine
end

section
/-! SUPPORT. `f(x)` is irreducible, by Rabin's test (spec/40_field_multiply.md R80): `x^(2^128) = x` modulo `f(x)`, and
`x^(2^64) - x` is prime to `f(x)`. So the residues are a field of `2^128` elements. -/

namespace Sys2Proof.Machine

open Polynomial

/-! ### Powers by squaring -/

@[simp] theorem residue_squarings (a : Elem) (n : Nat) : residue (squarings a n) = residue a ^ 2 ^ n := by
  induction n with
  | zero => rw [squarings, pow_zero, pow_one]
  | succ n ih => rw [squarings, residue_multiply, ih, ← pow_add, pow_succ, mul_two]

@[simp] theorem residue_fieldPow (a : Elem) (n : Nat) : residue (fieldPow a n) = residue a ^ n := by
  induction n with
  | zero => rw [fieldPow, residue_elemOne, pow_zero]
  | succ n ih => rw [fieldPow, residue_multiply, ih, pow_succ]

theorem squarings_add (a : Elem) (m n : Nat) : squarings a (m + n) = squarings (squarings a m) n :=
  residue_injective (by simp only [residue_squarings, ← pow_mul, pow_add])

/-! ### Rabin's test -/

/-- `squarings` with the number that each square stands for taken apart before the next squaring, so that the kernel
evaluates one multiplication at a time. -/
def squaringsEager : Nat → Elem → Elem
  | 0, a => a
  | n + 1, a =>
    match (multiply a a).toNat with
    | 0 => squaringsEager n 0
    | m + 1 => squaringsEager n (BitVec.ofNat 128 (m + 1))

theorem squaringsEager_eq (n : Nat) (a : Elem) : squaringsEager n a = squarings a n := by
  induction n generalizing a with
  | zero => rfl
  | succ n ih =>
    have hstep : squaringsEager (n + 1) a = squaringsEager n (BitVec.ofNat 128 (multiply a a).toNat) := by
      rw [squaringsEager]
      cases (multiply a a).toNat <;> rfl
    rw [hstep, BitVec.ofNat_toNat, BitVec.setWidth_eq, ih, Nat.add_comm, squarings_add]
    rfl

/-- `x^(2^64)` modulo `f(x)`. -/
def xToTwoPow64 : Elem := 0x61651fea6b5832b944e598a795a299f6#128

theorem squarings_elemX_64 : squarings elemX 64 = xToTwoPow64 := by
  rw [← squaringsEager_eq]
  decide +kernel

theorem squarings_elemX_128 : squarings elemX 128 = elemX := by
  rw [squarings_add elemX 64 64, squarings_elemX_64, ← squaringsEager_eq]
  decide +kernel

/-- `x^(2^64) - x` has an inverse modulo `f(x)`. -/
theorem squarings_elemX_64_invertible :
    multiply (squarings elemX 64 ^^^ elemX) 0x9e4af928ddbc838a41a8cafd2c95b018#128 = elemOne := by
  rw [squarings_elemX_64]
  decide +kernel

theorem residue_squarings_elemX (n : Nat) : residue (squarings elemX n) = AdjoinRoot.mk fieldPoly (X ^ 2 ^ n) := by
  rw [residue_squarings, residue_elemX, map_pow, AdjoinRoot.mk_X]

/-- Where `n` squarings bring `x` back, an irreducible factor of `f(x)` has a degree that divides `n`. -/
theorem natDegree_dvd_of_squarings_eq {n : Nat} (h : squarings elemX n = elemX) {p : (ZMod 2)[X]} (hp : Irreducible p)
    (hf : p ∣ fieldPoly) : p.natDegree ∣ n := by
  have hdvd : fieldPoly ∣ X ^ 2 ^ n - X := by
    rw [← AdjoinRoot.mk_eq_mk, ← residue_squarings_elemX, h, residue_elemX, AdjoinRoot.mk_X]
  apply hp.natDegree_dvd_of_dvd_X_pow_card_pow_sub_X
  rw [Nat.card_zmod]
  exact hf.trans hdvd

theorem isUnit_of_dvd_of_mk_mul_eq_one {f g h p : (ZMod 2)[X]} (hinv : AdjoinRoot.mk f g * AdjoinRoot.mk f h = 1)
    (hf : p ∣ f) (hg : p ∣ g) : IsUnit p := by
  rw [← map_mul, ← map_one (AdjoinRoot.mk f), AdjoinRoot.mk_eq_mk] at hinv
  exact isUnit_of_dvd_one ((dvd_sub_right (hg.mul_right h)).mp (hf.trans hinv))

/-- Where `x^(2^n) - x` is invertible, an irreducible factor of `f(x)` has a degree that does not divide `n`. -/
theorem not_natDegree_dvd_of_invertible {n : Nat} {v : Elem} (h : multiply (squarings elemX n ^^^ elemX) v = elemOne)
    {p : (ZMod 2)[X]} (hp : Irreducible p) (hf : p ∣ fieldPoly) : ¬ p.natDegree ∣ n := by
  intro hn
  have hdvd := hp.natDegree_dvd_iff_dvd_X_pow_card_pow_sub_X.mp hn
  rw [Nat.card_zmod, CharTwo.sub_eq_add] at hdvd
  have hinv : AdjoinRoot.mk fieldPoly (X ^ 2 ^ n + X) * AdjoinRoot.mk fieldPoly (poly v) = 1 := by
    rw [map_add, ← residue_squarings_elemX, AdjoinRoot.mk_X, ← residue_elemX, ← residue_xor, ← residue,
      ← residue_multiply, h, residue_elemOne]
  exact hp.not_isUnit (isUnit_of_dvd_of_mk_mul_eq_one hinv hf hdvd)

theorem natDegree_fieldPoly : fieldPoly.natDegree = 128 := natDegree_eq_of_degree_eq_some degree_fieldPoly

/-- An irreducible factor of `f(x)` has a degree that divides 128 and not 64, so it is all of `f(x)`. -/
theorem irreducible_fieldPoly : Irreducible fieldPoly := by
  have hnotUnit : ¬ IsUnit fieldPoly := by
    intro h
    have hdegree := natDegree_eq_zero_of_isUnit h
    rw [natDegree_fieldPoly] at hdegree
    contradiction
  obtain ⟨p, hp, hf⟩ := WfDvdMonoid.exists_irreducible_factor hnotUnit fieldPoly_ne_zero
  have h128 : p.natDegree ∣ 2 ^ 7 := natDegree_dvd_of_squarings_eq squarings_elemX_128 hp hf
  have h64 : ¬ p.natDegree ∣ 2 ^ 6 := not_natDegree_dvd_of_invertible squarings_elemX_64_invertible hp hf
  have hdegree : p.natDegree = 128 := Nat.eq_prime_pow_of_dvd_least_prime_pow Nat.prime_two h64 h128
  have hassoc : Associated p fieldPoly :=
    associated_of_dvd_of_natDegree_le hf fieldPoly_ne_zero (by rw [hdegree, natDegree_fieldPoly])
  exact hassoc.irreducible hp

/-! ### The order of the field -/

theorem card_residues : Nat.card (AdjoinRoot fieldPoly) = 2 ^ 128 := by
  rw [← Nat.card_congr (Equiv.ofBijective residue ⟨residue_injective, residue_surjective⟩)]
  exact (Nat.card_congr BitVec.equivFin.toEquiv).trans (Nat.card_fin _)

theorem residue_ne_zero {a : Elem} (ha : a ≠ elemZero) : residue a ≠ 0 := residue_eq_zero_iff.not.mpr ha

theorem multiply_eq_elemZero {a b : Elem} (h : multiply a b = elemZero) : a = elemZero ∨ b = elemZero := by
  have : Fact (Irreducible fieldPoly) := ⟨irreducible_fieldPoly⟩
  rw [← residue_eq_zero_iff, residue_multiply] at h
  simpa only [residue_eq_zero_iff] using mul_eq_zero.mp h

theorem multiply_left_cancel {a b b' : Elem} (ha : a ≠ elemZero) (h : multiply a b = multiply a b') : b = b' := by
  have hzero : multiply a (b ^^^ b') = elemZero := by rw [multiply_xor_right, h, BitVec.xor_self]; rfl
  exact BitVec.xor_eq_zero_iff.mp ((multiply_eq_elemZero hzero).resolve_left ha)

/-- The non-zero elements are a group of order `2^128 - 1`. -/
theorem fieldPow_eq_elemOne {a : Elem} {n : Nat} (ha : a ≠ elemZero) (hn : n + 1 = 2 ^ 128) : fieldPow a n = elemOne := by
  have : Fact (Irreducible fieldPoly) := ⟨irreducible_fieldPoly⟩
  have hcard : Nat.card (AdjoinRoot fieldPoly) - 1 = n := by rw [card_residues, ← hn, Nat.add_sub_cancel]
  have : Finite (AdjoinRoot fieldPoly) := Finite.of_surjective residue residue_surjective
  have := Fintype.ofFinite (AdjoinRoot fieldPoly)
  apply residue_injective
  rw [residue_fieldPow, residue_elemOne, ← hcard, Nat.card_eq_fintype_card]
  exact FiniteField.pow_card_sub_one_eq_one _ (residue_ne_zero ha)

/-! ### The recipe for the inverse -/

theorem squarings_eq_fieldPow (a : Elem) (k : Nat) : squarings a k = fieldPow a (2 ^ k) :=
  residue_injective (by rw [residue_squarings, residue_fieldPow])

/-- `a^2 * a^4 * ... * a^(2^(n+1))` is `a^(2^(n+2) - 2)`. -/
theorem residue_inverseLoop (a : Elem) (n m : Nat) (hm : m + 2 = 2 ^ (n + 2)) :
    residue (inverseLoop a n) = residue a ^ m := by
  induction n generalizing m with
  | zero =>
    obtain rfl : m = 2 ^ 1 := by omega
    rw [inverseLoop, residue_squarings]
  | succ n ih =>
    obtain ⟨k, hk⟩ : ∃ k, k + 2 = 2 ^ (n + 2) :=
      ⟨2 ^ (n + 2) - 2, Nat.sub_add_cancel (Nat.le_self_pow (by omega) 2)⟩
    rw [show n + 1 + 2 = n + 2 + 1 by omega, pow_succ] at hm
    obtain rfl : m = k + 2 ^ (n + 2) := by omega
    rw [inverseLoop, residue_multiply, ih k hk, residue_squarings, ← pow_add]

theorem inverse_eq_fieldPow (a : Elem) {n : Nat} (hn : n + 2 = 2 ^ 128) : inverse a = fieldPow a n :=
  residue_injective (by rw [inverse, residue_inverseLoop a 126 n hn, residue_fieldPow])

theorem multiply_inverse {a : Elem} (ha : a ≠ elemZero) : multiply a (inverse a) = elemOne := by
  obtain ⟨n, hn⟩ : ∃ n, n + 2 = 2 ^ 128 := ⟨2 ^ 128 - 2, by norm_num⟩
  rw [inverse_eq_fieldPow a hn, multiply_comm, ← fieldPow_eq_elemOne ha hn, fieldPow]

end Sys2Proof.Machine
end

section
/-! SUPPORT. What the stages do to single bits (spec/40_field_multiply.md R60 to R64, R79): the coefficients and the degree
of the product, the passes and the carry of the reduction, and the serial forms scanning an operand (R69, R70). -/

namespace Sys2Proof.Machine

open Polynomial

/-! ### Bits of the carry-less product -/

theorem getLsbD_eq_of_coeff {n m : Nat} {v : BitVec n} {w : BitVec m} {i j : Nat}
    (h : (poly v).coeff i = (poly w).coeff j) : v.getLsbD i = w.getLsbD j := by
  rw [Bool.eq_iff_iff, ← coeff_poly_eq_one_iff, ← coeff_poly_eq_one_iff, h]

theorem getLsbD_eq_false_of_coeff {n : Nat} {v : BitVec n} {i : Nat} (h : (poly v).coeff i = 0) : v.getLsbD i = false := by
  rw [Bool.eq_false_iff, ne_eq, ← coeff_poly_eq_one_iff, h]
  exact zero_ne_one

theorem getLsbD_eq_and_of_coeff {n m l : Nat} {u : BitVec n} {v : BitVec m} {w : BitVec l} {k i j : Nat}
    (h : (poly u).coeff k = (poly v).coeff i * (poly w).coeff j) : u.getLsbD k = (v.getLsbD i && w.getLsbD j) := by
  rw [Bool.eq_iff_iff, ← coeff_poly_eq_one_iff, h, coeff_poly, coeff_poly]
  cases v.getLsbD i <;> cases w.getLsbD j <;> simp

/-- The coefficient of `x^k` of the product counts the pairs `i + j = k` with both bits set (R60). -/
theorem coeff_poly_clmul_eq_card (a b : Elem) (k : Nat) :
    (poly (clmul a b)).coeff k = (((Finset.range 128 ×ˢ Finset.range 128).filter fun ij =>
      ij.1 + ij.2 = k ∧ (a.getLsbD ij.1 && b.getLsbD ij.2) = true).card : ZMod 2) := by
  rw [poly_clmul, poly, poly, Finset.sum_mul_sum, ← Finset.sum_product', finsetSum_coeff, Finset.card_filter,
    Nat.cast_sum]
  refine Finset.sum_congr rfl fun ij _ => ?_
  cases a.getLsbD ij.1 <;> cases b.getLsbD ij.2 <;> simp [← pow_add, coeff_X_pow, eq_comm]

theorem getLsbD_clmul_iff_odd (a b : Elem) (k : Nat) : (clmul a b).getLsbD k = true ↔
    Odd ((Finset.range 128 ×ˢ Finset.range 128).filter fun ij =>
      ij.1 + ij.2 = k ∧ (a.getLsbD ij.1 && b.getLsbD ij.2) = true).card := by
  rw [← coeff_poly_eq_one_iff, coeff_poly_clmul_eq_card, ZMod.natCast_eq_one_iff_odd]

/-- A XOR of bits that a mask selects, as a sum in GF(2). -/
theorem foldl_xor_eq_sum (mask term : Nat → Bool) (n : Nat) :
    (if ((List.range n).filter mask).foldl (fun acc i => acc ^^ term i) false then 1 else 0 : ZMod 2) =
      ∑ i ∈ Finset.range n, if mask i && term i then 1 else 0 := by
  have htwo : (1 : ZMod 2) + 1 = 0 := by decide
  induction n with
  | zero => rfl
  | succ n ih =>
    rw [List.range_succ, List.filter_append, List.foldl_append, Finset.sum_range_succ, ← ih]
    generalize ((List.range n).filter mask).foldl (fun acc i => acc ^^ term i) false = acc
    cases hn : mask n
    · simp [hn]
    · cases ht : term n <;> cases acc <;> simp [hn, ht, htwo]

theorem getLsbD_clmul_eq_clmulBit (a b : Elem) (k : Nat) : (clmul a b).getLsbD k = clmulBit a b k := by
  have hsum : (poly (clmul a b)).coeff k = if clmulBit a b k then 1 else 0 := by
    rw [poly_clmul, poly, Finset.sum_mul, finsetSum_coeff, clmulBit, foldl_xor_eq_sum]
    refine Finset.sum_congr rfl fun i _ => ?_
    cases a.getLsbD i
    · simp
    · simp [coeff_X_pow_mul', coeff_poly, ite_and]
  rw [Bool.eq_iff_iff, ← coeff_poly_eq_one_iff, hsum]
  cases clmulBit a b k <;> simp

theorem clmulSerialLoop_eq_foldl_and (a b : Elem) (n : Nat) : clmulSerialLoop a b n =
    (List.range n).foldl (fun acc i => acc ^^^ (shiftedCopy a i &&& repBits 256 (b.getLsbD i))) 0 := by
  induction n with
  | zero => rfl
  | succ n ih => rw [clmulSerialLoop, ih, List.range_succ, List.foldl_append, List.foldl_cons, List.foldl_nil]

/-! ### Degrees -/

theorem poly_ne_zero {n : Nat} {v : BitVec n} (hv : v ≠ 0) : poly v ≠ 0 :=
  fun h => hv (poly_injective (h.trans poly_zero.symm))

/-- The index of the highest bit set is the degree of the polynomial (R10). -/
theorem degree_eq_natDegree {n : Nat} {v : BitVec n} (hv : v ≠ 0) : degree v = (poly v).natDegree := by
  have htop : v.toNat.testBit (poly v).natDegree = true := by
    rw [BitVec.testBit_toNat]
    by_contra hbit
    exact leadingCoeff_ne_zero.mpr (poly_ne_zero hv) (by rw [leadingCoeff, coeff_poly, if_neg hbit])
  have hlt : v.toNat < 2 ^ ((poly v).natDegree + 1) := by
    refine Nat.lt_pow_two_of_testBit _ fun i hi => ?_
    rw [BitVec.testBit_toNat]
    exact getLsbD_eq_false_of_coeff (coeff_eq_zero_of_natDegree_lt hi)
  exact Nat.log_eq_of_pow_le_of_lt_pow (Nat.ge_two_pow_of_testBit htop) hlt

theorem natDegree_poly_le (a : Elem) : (poly a).natDegree ≤ 127 := by
  rw [natDegree_le_iff_coeff_eq_zero]
  intro i hi
  simp [coeff_poly, BitVec.getLsbD_of_ge a i hi]

theorem natDegree_poly_clmul_le (a b : Elem) : (poly (clmul a b)).natDegree ≤ 254 := by
  rw [poly_clmul]
  exact natDegree_mul_le_of_le (natDegree_poly_le a) (natDegree_poly_le b)

theorem clmul_ne_zero {a b : Elem} (ha : a ≠ 0) (hb : b ≠ 0) : clmul a b ≠ 0 := by
  intro h
  have hprod : poly a * poly b = 0 := by rw [← poly_clmul, h]; exact poly_zero
  exact mul_ne_zero (poly_ne_zero ha) (poly_ne_zero hb) hprod

theorem degree_clmul {a b : Elem} (ha : a ≠ 0) (hb : b ≠ 0) : degree (clmul a b) = degree a + degree b := by
  rw [degree_eq_natDegree ha, degree_eq_natDegree hb, degree_eq_natDegree (clmul_ne_zero ha hb), poly_clmul,
    natDegree_mul (poly_ne_zero ha) (poly_ne_zero hb)]

theorem degree_clmul_le {a b : Elem} (ha : a ≠ 0) (hb : b ≠ 0) : degree (clmul a b) ≤ 254 := by
  rw [degree_eq_natDegree (clmul_ne_zero ha hb)]
  exact natDegree_poly_clmul_le a b

/-! ### The lowest and the highest bits, and squares -/

theorem getLsbD_clmul_255 (a b : Elem) : (clmul a b).getLsbD 255 = false :=
  getLsbD_eq_false_of_coeff
    (coeff_eq_zero_of_natDegree_lt ((natDegree_poly_clmul_le a b).trans_lt (by decide)))

theorem getLsbD_clmul_0 (a b : Elem) : (clmul a b).getLsbD 0 = (a.getLsbD 0 && b.getLsbD 0) :=
  getLsbD_eq_and_of_coeff (by rw [poly_clmul, mul_coeff_zero])

theorem getLsbD_clmul_254 (a b : Elem) : (clmul a b).getLsbD 254 = (a.getLsbD 127 && b.getLsbD 127) :=
  getLsbD_eq_and_of_coeff (by
    rw [poly_clmul, coeff_mul_add_eq_of_natDegree_le (natDegree_poly_le a) (natDegree_poly_le b)])

/-- Over GF(2) the square of a polynomial is the polynomial in `x^2`. -/
theorem poly_clmul_self (a : Elem) : poly (clmul a a) = expand (ZMod 2) 2 (poly a) := by
  rw [poly_clmul, ZMod.expand_card, sq]

theorem getLsbD_clmul_self_even (a : Elem) (i : Nat) : (clmul a a).getLsbD (2 * i) = a.getLsbD i :=
  getLsbD_eq_of_coeff (by rw [poly_clmul_self, coeff_expand_mul' two_pos])

theorem getLsbD_clmul_self_odd (a : Elem) (i : Nat) : (clmul a a).getLsbD (2 * i + 1) = false :=
  getLsbD_eq_false_of_coeff (by rw [poly_clmul_self, coeff_expand two_pos, if_neg (by omega)])

/-- The bits of `a` below `n` stand at the even places below `2n`. -/
theorem getLsbD_spreadLoop (a : Elem) {n : Nat} (hn : n ≤ 128) (j : Nat) :
    (spreadLoop a n).getLsbD j = (decide (j % 2 = 0 ∧ j / 2 < n) && a.getLsbD (j / 2)) := by
  induction n with
  | zero => simp [spreadLoop]
  | succ n ih =>
    have hterm : (if a.getLsbD n then 1#256 <<< (2 * n) else 0).getLsbD j = (decide (j = 2 * n) && a.getLsbD n) := by
      cases a.getLsbD n
      · simp
      · rw [if_pos rfl, ← BitVec.twoPow_eq, BitVec.getLsbD_twoPow]
        simp [show 2 * n < 256 by omega, eq_comm]
    rw [spreadLoop, BitVec.getLsbD_or, ih (by omega), hterm]
    by_cases hj : j = 2 * n
    · simp [hj]
    · have hplaces : (j % 2 = 0 ∧ j / 2 < n + 1) ↔ (j % 2 = 0 ∧ j / 2 < n) := by omega
      simp only [hplaces, hj, decide_false, Bool.false_and, Bool.or_false]

theorem getLsbD_spread_even (a : Elem) {i : Nat} (hi : i < 128) : (spread a).getLsbD (2 * i) = a.getLsbD i := by
  rw [spread, getLsbD_spreadLoop a le_rfl]
  simp [hi]

theorem getLsbD_spread_odd (a : Elem) (i : Nat) : (spread a).getLsbD (2 * i + 1) = false := by
  rw [spread, getLsbD_spreadLoop a le_rfl]
  simp

theorem clmul_self_eq_spread (a : Elem) : clmul a a = spread a := by
  apply BitVec.eq_of_getLsbD_eq
  intro j hj
  obtain ⟨i, rfl | rfl⟩ := Nat.even_or_odd' j
  · rw [getLsbD_clmul_self_even, getLsbD_spread_even a (by omega)]
  · rw [getLsbD_clmul_self_odd, getLsbD_spread_odd]

/-! ### The bits that a pass of long division touches -/

theorem getLsbD_fpoly (i : Nat) :
    fpoly.getLsbD i = true ↔ i = 128 ∨ i = 7 ∨ i = 2 ∨ i = 1 ∨ i = 0 := by
  have hbits : ∀ i, i < 129 → (fpoly.getLsbD i = true ↔ i = 128 ∨ i = 7 ∨ i = 2 ∨ i = 1 ∨ i = 0) := by decide
  by_cases hi : i < 129
  · exact hbits i hi
  · rw [BitVec.getLsbD_of_ge fpoly i (by omega)]
    constructor
    · intro h
      contradiction
    · omega

theorem getLsbD_shiftedFpoly {k j : Nat} (hj : j < 256) : (shiftedFpoly k).getLsbD j = true ↔
    j = k + 128 ∨ j = k + 7 ∨ j = k + 2 ∨ j = k + 1 ∨ j = k := by
  rw [shiftedFpoly, BitVec.getLsbD_shiftLeft, BitVec.getLsbD_setWidth]
  simp only [hj, show j - k < 256 by omega, decide_true, Bool.true_and, Bool.and_eq_true, Bool.not_eq_true',
    decide_eq_false_iff_not, getLsbD_fpoly]
  omega

theorem getLsbD_xor_ne_iff {n : Nat} (v w : BitVec n) (j : Nat) :
    (v ^^^ w).getLsbD j ≠ v.getLsbD j ↔ w.getLsbD j = true := by
  rw [BitVec.getLsbD_xor]
  cases v.getLsbD j <;> cases w.getLsbD j <;> decide

/-! ### The carry of the fold -/

theorem getLsbD_setWidth_shiftLeft {n m : Nat} (v : BitVec n) {k i : Nat} (hk : k ≤ i) (hi : i < m) :
    (v.setWidth m <<< k).getLsbD i = v.getLsbD (i - k) := by
  rw [BitVec.getLsbD_shiftLeft, BitVec.getLsbD_setWidth]
  simp [hi, not_lt.mpr hk, show i - k < m by omega]

theorem getLsbD_foldCarry (h : Elem) {i : Nat} (hi : i < 7) :
    (foldCarry h).getLsbD i = (h.getLsbD (121 + i) ^^ h.getLsbD (126 + i) ^^ h.getLsbD (127 + i)) := by
  simp only [foldCarry, BitVec.getLsbD_setWidth, hi, decide_true, Bool.true_and, BitVec.getLsbD_xor,
    BitVec.getLsbD_ushiftRight]
  rw [Bool.xor_comm, Bool.xor_comm (h.getLsbD (127 + i)), ← Bool.xor_assoc]

theorem getLsbD_foldCarry_6 (h : Elem) : (foldCarry h).getLsbD 6 = h.getLsbD 127 := by
  rw [getLsbD_foldCarry h (by decide)]
  simp

/-- The bits of the first fold past bit 127 are the carry (R64). -/
theorem getLsbD_foldWide_shift (h : Elem) (i : Nat) :
    (foldWide h >>> 128).getLsbD i = (decide (i < 7) && (foldCarry h).getLsbD i) := by
  by_cases hi : i < 7
  · rw [getLsbD_foldCarry h hi]
    have hwidth : 128 + i < 135 := by omega
    rw [BitVec.getLsbD_ushiftRight, foldWide]
    simp only [BitVec.getLsbD_xor, BitVec.getLsbD_setWidth, BitVec.getLsbD_of_ge h (128 + i) (by omega),
      getLsbD_setWidth_shiftLeft h (show 1 ≤ 128 + i by omega) hwidth,
      getLsbD_setWidth_shiftLeft h (show 2 ≤ 128 + i by omega) hwidth,
      getLsbD_setWidth_shiftLeft h (show 7 ≤ 128 + i by omega) hwidth]
    rw [show 128 + i - 1 = 127 + i by omega, show 128 + i - 2 = 126 + i by omega, show 128 + i - 7 = 121 + i by omega,
      Bool.xor_comm, Bool.xor_comm _ (h.getLsbD (126 + i)), ← Bool.xor_assoc]
    simp [hi]
  · simp [hi, BitVec.getLsbD_of_ge (foldWide h) (128 + i) (by omega)]

theorem foldWide_shift_eq_foldCarry (h : Elem) : (foldWide h >>> 128).setWidth 7 = foldCarry h := by
  apply BitVec.eq_of_getLsbD_eq
  intro i hi
  rw [BitVec.getLsbD_setWidth, getLsbD_foldWide_shift]
  simp [hi]

theorem foldWide_shift_lt (h : Elem) : (foldWide h >>> 128).toNat < 2 ^ 7 := by
  refine Nat.lt_pow_two_of_testBit _ fun i hi => ?_
  rw [BitVec.testBit_toNat, getLsbD_foldWide_shift]
  simp [show ¬ i < 7 by omega]

theorem foldTail_lt (t : BitVec 7) : (foldTail t).toNat < 2 ^ 14 := by
  refine Nat.lt_pow_two_of_testBit _ fun i hi => ?_
  rw [BitVec.testBit_toNat]
  simp [foldTail, BitVec.getLsbD_of_ge t i (by omega), BitVec.getLsbD_of_ge t (i - 1) (by omega),
    BitVec.getLsbD_of_ge t (i - 2) (by omega), BitVec.getLsbD_of_ge t (i - 7) (by omega)]

/-- Folding the high half and then its carry is folding both together. -/
theorem reduceFold2_eq_reduceFold (c : Product) : reduceFold2 c = reduceFold c := by
  have hwide : (foldWide (hi c)).setWidth 128 = hi c ^^^ (hi c <<< 1) ^^^ (hi c <<< 2) ^^^ (hi c <<< 7) := by
    simp [foldWide]
  simp only [reduceFold2, foldWide_shift_eq_foldCarry, hwide, foldTail, reduceFold, BitVec.shiftLeft_xor_distrib]
  ac_rfl

theorem reduceFold2_eq_reduce (c : Product) : reduceFold2 c = reduce c := by
  rw [reduceFold2_eq_reduceFold, reduceFold_eq_reduce]

theorem getLsbD_hi_clmul_127 (a b : Elem) : (hi (clmul a b)).getLsbD 127 = false := by
  rw [getLsbD_hi _ (by decide), getLsbD_clmul_255]

/-! ### Serial forms -/

/-- Bit 255 of a product is 0, so the pass for it does nothing (R69). -/
theorem reduceLoop_clmul (a b : Elem) : reduceLoop 128 (clmul a b) = reduceLoop 127 (clmul a b) := by
  rw [reduceLoop, getLsbD_clmul_255, if_neg Bool.false_ne_true]

theorem lsbFirstLoop_succ (a b : Elem) (n : Nat) : lsbFirstLoop a b (n + 1) =
    ((lsbFirstLoop a b n).1 ^^^ ((lsbFirstLoop a b n).2 &&& repBits 128 (b.getLsbD n)), xtime (lsbFirstLoop a b n).2) := rfl

theorem lsbFirstLoop_snd (a b : Elem) (n : Nat) : (lsbFirstLoop a b n).2 = xtimes n a := by
  induction n with
  | zero => rfl
  | succ n ih => rw [lsbFirstLoop_succ, ih, xtimes]

theorem residue_mask (v : Elem) (c : Bool) : residue (v &&& repBits 128 c) = if c then residue v else 0 := by
  rw [and_repBits]
  cases c <;> simp

theorem residue_lsbFirstLoop (a b : Elem) (n : Nat) : residue (lsbFirstLoop a b n).1 =
    AdjoinRoot.mk fieldPoly (∑ i ∈ Finset.range n, if b.getLsbD i then X ^ i * poly a else 0) := by
  induction n with
  | zero => rw [Finset.sum_range_zero, map_zero]; exact residue_zero
  | succ n ih =>
    rw [lsbFirstLoop_succ, residue_xor, ih, residue_mask, lsbFirstLoop_snd, residue_xtimes, Finset.sum_range_succ, map_add]
    cases b.getLsbD n <;> simp [residue]

theorem multiplyLsbFirst_eq_multiply (a b : Elem) : multiplyLsbFirst a b = multiply a b := by
  apply residue_injective
  rw [multiplyLsbFirst, residue_lsbFirstLoop, sum_shifted_eq_mul, map_mul, residue_multiply, residue, residue]

/-- Taking off the lowest bit of `b >> k`. -/
theorem poly_ushiftRight (b : Elem) (k : Nat) :
    poly (b >>> k) = X * poly (b >>> (k + 1)) + if b.getLsbD k then 1 else 0 := by
  have hbit : (if b.getLsbD k then 1 else 0 : (ZMod 2)[X]) = C (if b.getLsbD k then 1 else 0) := by
    cases b.getLsbD k <;> simp
  rw [hbit]
  refine ext fun i => ?_
  rw [coeff_add, coeff_C]
  cases i with
  | zero => simp [coeff_poly]
  | succ i => simp [coeff_poly, show k + 1 + i = k + (i + 1) by omega]

/-- Horner's scheme: after `n` iterations the register holds `a` times the top `n` bits of `b` (R70). -/
theorem residue_msbFirstLoop (a b : Elem) {n : Nat} (hn : n ≤ 128) :
    residue (msbFirstLoop a b n) = residue a * residue (b >>> (128 - n)) := by
  induction n with
  | zero =>
    have hempty : b >>> 128 = 0#128 := BitVec.ushiftRight_eq_zero le_rfl
    rw [msbFirstLoop, Nat.sub_zero, hempty, residue_zero, mul_zero]
    exact residue_zero
  | succ n ih =>
    have htop : residue (b >>> (128 - (n + 1))) = AdjoinRoot.root fieldPoly * residue (b >>> (128 - n)) +
        if b.getLsbD (127 - n) then 1 else 0 := by
      rw [residue, show 128 - (n + 1) = 127 - n by omega, poly_ushiftRight, show 127 - n + 1 = 128 - n by omega,
        map_add, map_mul, AdjoinRoot.mk_X, residue]
      cases b.getLsbD (127 - n) <;> simp
    rw [msbFirstLoop, residue_xor, residue_xtime, ih (by omega), residue_mask, htop]
    cases b.getLsbD (127 - n) <;> simp <;> ring

theorem multiplyMsbFirst_eq_multiply (a b : Elem) : multiplyMsbFirst a b = multiply a b := by
  apply residue_injective
  rw [multiplyMsbFirst, residue_msbFirstLoop a b le_rfl, Nat.sub_self, BitVec.ushiftRight_zero, residue_multiply]

end Sys2Proof.Machine
end

section
/-! SUPPORT. The host's inversion as a script (spec/40_field_multiply.md R80, spec/30_encoding.md R52). -/

namespace Sys2Proof.Machine

/-- The host holds `a^(2^(n+1))` in variable 1 and the product of `a^(2^i)` for `i` in `1..n+1` in variable 2. -/
def HostVars.Inverting (a : Elem) (n : Nat) (h : HostVars) : Prop :=
  h.value (.var 1) = some (squarings a (n + 1)) ∧ h.value (.var 2) = some (inverseLoop a n)

@[simp] theorem value_bind_same (h : HostVars) (d : Nat) (v : Elem) : (h.bind d v).value (.var d) = some v := by
  simp [HostVars.bind, HostVars.value]

theorem value_bind_other (h : HostVars) {d n : Nat} (v : Elem) (hn : n ≠ d) :
    (h.bind d v).value (.var n) = h.value (.var n) := by
  rw [HostVars.value, HostVars.bind, List.lookup_cons, beq_eq_false_iff_ne.mpr hn]
  rfl

theorem evalScript_gfsqr (ops : List ScriptOp) {h : HostVars} {s : ScriptArg} {v : Elem} (d : Nat)
    (hs : h.value s = some v) :
    evalScript (.gfsqr d s :: ops) h = evalScript ops (h.bind d (multiply v v)) := by
  simp [evalScript, evalOp, hs]

theorem evalScript_gfmul (ops : List ScriptOp) {h : HostVars} {s t : ScriptArg} {v w : Elem} (d : Nat)
    (hs : h.value s = some v) (ht : h.value t = some w) :
    evalScript (.gfmul d s t :: ops) h = evalScript ops (h.bind d (multiply v w)) := by
  simp [evalScript, evalOp, hs, ht]

theorem evalScript_hostLet (ops : List ScriptOp) {h : HostVars} {s : ScriptArg} {v : Elem} (d : Nat)
    (hs : h.value s = some v) : evalScript (.hostLet d s :: ops) h = evalScript ops (h.bind d v) := by
  simp [evalScript, evalOp, hs]

/-- Each round of the recipe is one more squaring and one more factor. -/
theorem evalScript_inversion_rounds {a : Elem} (k : Nat) {n : Nat} {h : HostVars} (hinv : h.Inverting a n) :
    ∃ h', evalScript (repeatOps k [.gfsqr 1 (.var 1), .gfmul 2 (.var 2) (.var 1)]) h = some h' ∧
      h'.Inverting a (n + k) := by
  induction k generalizing n h with
  | zero => exact ⟨h, rfl, hinv⟩
  | succ k ih =>
    obtain ⟨hsquare, hproduct⟩ := hinv
    have hproduct' : (h.bind 1 (squarings a (n + 2))).value (.var 2) = some (inverseLoop a n) := by
      rw [value_bind_other h _ (by decide), hproduct]
    have hround : ((h.bind 1 (squarings a (n + 2))).bind 2 (inverseLoop a (n + 1))).Inverting a (n + 1) :=
      ⟨by rw [value_bind_other _ _ (by decide), value_bind_same], value_bind_same ..⟩
    obtain ⟨h', heval, hinv'⟩ := ih hround
    refine ⟨h', ?_, by rwa [show n + (k + 1) = n + 1 + k by omega]⟩
    rw [← heval, repeatOps, List.replicate_succ, List.flatten_cons, List.cons_append, List.cons_append, List.nil_append,
      evalScript_gfsqr _ _ hsquare]
    exact evalScript_gfmul _ _ hproduct' (value_bind_same ..)

theorem evalScript_inversionScript (a : Elem) :
    ∃ h, evalScript inversionScript ⟨[(0, a)], true⟩ = some h ∧ h.value (.var 2) = some (inverse a) := by
  have hstart : ((HostVars.mk [(0, a)] true).bind 1 (multiply a a)).bind 2 (multiply a a) |>.Inverting a 0 :=
    ⟨by rw [value_bind_other _ _ (by decide), value_bind_same]; rfl, value_bind_same ..⟩
  obtain ⟨h, heval, -, hvalue⟩ := evalScript_inversion_rounds 126 hstart
  refine ⟨h, ?_, by rw [hvalue, Nat.zero_add, inverse]⟩
  rw [← heval, inversionScript, List.cons_append, List.cons_append, List.nil_append,
    evalScript_gfsqr (v := a) _ _ rfl]
  exact evalScript_hostLet _ _ (value_bind_same ..)

end Sys2Proof.Machine
end

section
/-! The statements of spec/40_field_multiply.md, settled. -/

namespace Sys2Proof.Proofs

open Sys2Proof.Machine

/-- Settles O9: each form of R60 has the coefficients of the product of the polynomials. -/
theorem clmulIsThePolynomialProduct : Obligations.ClmulIsThePolynomialProduct :=
  ⟨poly_clmul, fun a b k _ => getLsbD_clmul_iff_odd a b k, fun a b k _ => getLsbD_clmul_eq_clmulBit a b k,
    fun a b => by rw [← clmulSerialLoop_eq_foldl_and a b 128, ← clmulSerial, clmulSerial_eq_clmul], by decide +kernel⟩

/-- Settles O10. -/
theorem clmulFacts : Obligations.ClmulFacts :=
  ⟨getLsbD_clmul_255, fun _ _ ha hb => ⟨clmul_ne_zero ha hb, degree_clmul ha hb, degree_clmul_le ha hb⟩, clmul_comm,
    clmul_elemZero, clmul_elemOne, fun a k hk => by rw [← BitVec.twoPow_eq, clmul_twoPow a hk], clmul_xor_left,
    fun a i _ => ⟨getLsbD_clmul_self_even a i, getLsbD_clmul_self_odd a i⟩,
    fun a b => ⟨getLsbD_clmul_0 a b, getLsbD_clmul_254 a b⟩⟩

/-- Settles O11. -/
theorem halvesMakeTheProduct : Obligations.HalvesMakeTheProduct := fun c =>
  ⟨(hi_append_lo c).symm, (hi_shiftLeft_xor_lo c).symm, fun _ hi => ⟨getLsbD_hi c hi, getLsbD_lo c hi⟩⟩

/-- Settles O12: long division subtracts multiples of `f(x)` until no bit is left above bit 127. -/
theorem reduceIsTheRemainder : Obligations.ReduceIsTheRemainder := by
  refine ⟨fun c => ⟨poly_reduce c, fun r hr => poly_injective (hr.trans (poly_reduce c).symm)⟩, hi_reduceLoop_all,
    fun c i hi _ _ j hj => ?_, fun c h => reduce_of_hi_eq_zero h, by decide +kernel, by decide +kernel, by decide +kernel⟩
  rw [getLsbD_xor_ne_iff, getLsbD_shiftedFpoly hj]
  omega

/-- Settles O13: both foldings are one additive map, and a product has no bit 255 to be carried. -/
theorem foldingEqualsDivision : Obligations.FoldingEqualsDivision := by
  refine ⟨fun c => ⟨reduceFold_eq_reduce c, reduceFold2_eq_reduce c⟩,
    fun h => ⟨foldWide_shift_eq_foldCarry h, foldWide_shift_lt h⟩, foldTail_lt, fun h => ?_, fun a b => ?_,
    by decide +kernel, by decide +kernel⟩
  · refine ⟨getLsbD_foldCarry_6 h, ?_⟩
    refine ⟨?_, ?_, ?_, ?_, ?_, ?_⟩ <;> rw [getLsbD_foldCarry h (by decide)] <;> simp
  · rw [getLsbD_foldCarry_6, and_self]
    exact getLsbD_hi_clmul_127 a b

/-- Settles O14. -/
theorem multiplyIsTheFieldProduct : Obligations.MultiplyIsTheFieldProduct :=
  ⟨fun a b => ⟨rfl, poly_multiply a b⟩,
    fun a => ⟨multiply_elemZero a, elemZero_multiply a, multiply_elemOne a, elemOne_multiply a⟩, by decide +kernel⟩

/-- Settles O15. -/
theorem narrowProductsMakeClmul : Obligations.NarrowProductsMakeClmul := fun a b =>
  ⟨clmulFour_eq_clmul a b, clmulThree_eq_clmul a b⟩

/-- Settles O16. -/
theorem serialStagesAgree : Obligations.SerialStagesAgree := by
  refine ⟨clmulSerial_eq_clmul, reduceSerial_eq_reduce, fun a b => ?_⟩
  rw [reduceSerialLoop_eq_reduceLoop, ← reduceLoop_clmul, reduce]

/-- Settles O17. -/
theorem interleavedFormsAgree : Obligations.InterleavedFormsAgree :=
  ⟨lsbFirstLoop_snd, fun a b => ⟨multiplyLsbFirst_eq_multiply a b, multiplyMsbFirst_eq_multiply a b⟩⟩

/-- Settles O18: every form has been shown equal to `CLMUL`, to `REDUCE` or to `MULTIPLY`. -/
theorem implementationsAgree : Obligations.ImplementationsAgree := fun a b =>
  ⟨reduceFold_eq_reduce _, reduceFold2_eq_reduce _, reduceSerial_eq_reduce _, clmulSerial_eq_clmul a b,
    by rw [reduceSerial_eq_reduce, clmulSerial_eq_clmul], multiplyLsbFirst_eq_multiply a b,
    multiplyMsbFirst_eq_multiply a b, clmulFour_eq_clmul a b, clmulThree_eq_clmul a b,
    fun impl => datapath_eq_multiply impl a b⟩

/-- Settles O19. -/
theorem multiplyCommutes : Obligations.MultiplyCommutes := multiply_comm

/-- Settles O20. -/
theorem oneIsTheIdentity : Obligations.OneIsTheIdentity := fun a =>
  ⟨multiply_elemOne a, elemOne_multiply a, clmul_elemOne a, by rw [clmul_elemOne, hi_setWidth]⟩

/-- Settles O21. -/
theorem zeroAbsorbs : Obligations.ZeroAbsorbs := fun a =>
  ⟨multiply_elemZero a, elemZero_multiply a, clmul_elemZero a⟩

/-- Settles O22. -/
theorem multiplyDistributesOverXor : Obligations.MultiplyDistributesOverXor :=
  ⟨multiply_xor_left, multiply_xor_right, reduce_xor⟩

/-- Settles O23: the residue classes of both sides are the same product of three. -/
theorem multiplyIsAssociative : Obligations.MultiplyIsAssociative := multiply_assoc

/-- Settles O24: `XTIME` is multiplication by `x`; the rows of the table are evaluated. -/
theorem multiplyByPowersOfX : Obligations.MultiplyByPowersOfX := by
  refine ⟨multiply_elemX, fun a _ hk => multiply_shiftLeft_one a hk, fun _ hk => xtimes_elemOne hk, fieldPow_elemX, ?_⟩
  decide +kernel

/-- Settles O25. -/
theorem squaringSpreadsAndAdds : Obligations.SquaringSpreadsAndAdds :=
  ⟨fun a => by rw [multiply, clmul_self_eq_spread],
    fun a i hi => ⟨getLsbD_spread_even a hi, getLsbD_spread_odd a i⟩, multiply_self_xor⟩

/-- Settles O26: `f(x)` is irreducible, so the residues are a field of `2^128` elements. -/
theorem fieldHasUniqueInverses : Obligations.FieldHasUniqueInverses :=
  ⟨fun _ _ h => multiply_eq_elemZero h,
    fun a ha => ⟨inverse a, multiply_inverse ha, fun _ h =>
      multiply_left_cancel ha (h.trans (multiply_inverse ha).symm)⟩,
    fun _ _ ha hn => fieldPow_eq_elemOne ha hn, by decide +kernel⟩

/-- Settles O27: the factors' exponents `2^1 + ... + 2^127` add up to `2^128 - 2`. -/
theorem inversionRecipeWorks : Obligations.InversionRecipeWorks :=
  ⟨squarings_eq_fieldPow, fun a _ hn => inverse_eq_fieldPow a hn, fun _ ha => multiply_inverse ha, by decide +kernel,
    by decide +kernel, evalScript_inversionScript⟩

end Sys2Proof.Proofs
end

section
/-! SUPPORT. The rows of R97 from their guards, the step at inputs given apart, and runs of edges that wait
(spec/41_gfmul_transaction.md R91 to R99). -/

namespace Sys2Proof.Machine

/-! ### Runs of the core -/

/-- A run of the core is a run of clocked edges of a block whose LATENCY is the open constant (R97, R8). -/
theorem core_run_eq_runEdges (n : Nat) (s : State) :
    Host.Core.run core n s = .next (runEdges Config.latency n s) := by
  induction n generalizing s with
  | zero => rfl
  | succ n ih => rw [core_run_succ_of_next (step_eq_clockEdge s), ih, runEdges_succ]

/-! ### The rows of R97 from their guards -/

theorem stepName_eq_issue_iff {s : State} :
    stepName s = .issue ↔ s.ports.rst = false ∧ s.phase = .idle ∧ s.ports.reqValid = true := by
  cases hrst : s.ports.rst with
  | true => simp [stepName_of_rst hrst]
  | false =>
    cases hp : s.phase with
    | idle => simp [stepName_of_idle hrst hp]
    | busy => simp [stepName_of_busy hrst hp, ite_eq_iff]
    | done => simp [stepName_of_done hrst hp, ite_eq_iff]

theorem stepName_eq_tick {s : State} (hrst : s.ports.rst = false) (hp : s.phase = .busy) (hcnt : s.cnt ≠ 0) :
    stepName s = .tick := by
  simp [stepName_of_busy hrst hp, hcnt]

theorem stepName_eq_execute {s : State} (hrst : s.ports.rst = false) (hp : s.phase = .busy) (hcnt : s.cnt = 0) :
    stepName s = .execute := by
  simp [stepName_of_busy hrst hp, hcnt]

/-- HOLD waits for the host: for a request in IDLE, for `rsp_ready` in DONE (R94). -/
theorem stepName_eq_hold {s : State} (hrst : s.ports.rst = false)
    (hwait : s.phase = .idle ∧ s.ports.reqValid = false ∨ s.phase = .done ∧ s.ports.rspReady = false) :
    stepName s = .hold := by
  obtain ⟨hp, hreq⟩ | ⟨hp, hrsp⟩ := hwait
  · simp [stepName_of_idle hrst hp, hreq]
  · simp [stepName_of_done hrst hp, hrsp]

/-- What chooses the row: the phase, `rst`, the count in BUSY, `req_valid` in IDLE and `rsp_ready` in DONE (R97, R99). -/
theorem stepName_congr {s t : State} (hp : s.phase = t.phase) (hrst : s.ports.rst = t.ports.rst)
    (hreq : s.phase = .idle → s.ports.reqValid = t.ports.reqValid) (hcnt : s.phase = .busy → s.cnt = t.cnt)
    (hrsp : s.phase = .done → s.ports.rspReady = t.ports.rspReady) : stepName s = stepName t := by
  cases hreset : s.ports.rst with
  | true => rw [stepName_of_rst hreset, stepName_of_rst (hrst ▸ hreset)]
  | false =>
    cases hphase : s.phase with
    | idle => rw [stepName_of_idle hreset hphase, stepName_of_idle (hrst ▸ hreset) (hp ▸ hphase), hreq hphase]
    | busy => rw [stepName_of_busy hreset hphase, stepName_of_busy (hrst ▸ hreset) (hp ▸ hphase), hcnt hphase]
    | done => rw [stepName_of_done hreset hphase, stepName_of_done (hrst ▸ hreset) (hp ▸ hphase), hrsp hphase]

theorem clockEdge_of_rst (latency : Nat) {s : State} (h : s.ports.rst = true) :
    clockEdge latency s = resetEdge latency s := by
  simp [clockEdge, stepName_of_rst h]

/-! ### The step at inputs given apart from the state (R99) -/

@[simp] theorem withPorts_rspP (s : State) (p : Ports) : (s.withPorts p).rspP = s.rspP := rfl

/-- Giving a state the inputs it samples anyway changes nothing of the edge. -/
theorem clockEdge_withPorts_ports (latency : Nat) (s : State) :
    clockEdge latency (s.withPorts s.ports) = clockEdge latency s := by
  have hname : stepName (s.withPorts s.ports) = stepName s := rfl
  rw [clockEdge, clockEdge, hname]
  rfl

/-- The inputs act on an edge through the row they choose, and in ISSUE through the operands. -/
theorem clockEdge_withPorts_sameSpecified (latency : Nat) {s : State} {p q : Ports}
    (hname : stepName (s.withPorts p) = stepName (s.withPorts q))
    (hops : stepName (s.withPorts q) = .issue → p.reqA = q.reqA ∧ p.reqB = q.reqB) :
    (clockEdge latency (s.withPorts p)).SameSpecified (clockEdge latency (s.withPorts q)) := by
  rw [clockEdge, clockEdge, hname]
  cases hrow : stepName (s.withPorts q) with
  | issue =>
    obtain ⟨ha, hb⟩ := hops hrow
    simp [State.SameSpecified, ha, hb]
  | reset => simp [State.SameSpecified]
  | tick => simp [State.SameSpecified]
  | execute => simp [State.SameSpecified]
  | retire => simp [State.SameSpecified]
  | hold => simp [State.SameSpecified]

/-- Inputs that choose the same row, the operands the same where it is ISSUE, have the same outcome. -/
theorem step_withPorts_sameOutcome {s : State} {p q : Ports}
    (hname : stepName (s.withPorts p) = stepName (s.withPorts q))
    (hops : stepName (s.withPorts q) = .issue → p.reqA = q.reqA ∧ p.reqB = q.reqB) :
    SameOutcome (step (s.withPorts p)) (step (s.withPorts q)) :=
  ⟨_, _, step_eq_clockEdge _, step_eq_clockEdge _, clockEdge_withPorts_sameSpecified _ hname hops⟩

/-- BUSY looks at `rst` and its own count only (R92, R99). -/
theorem step_withPorts_of_busy {s : State} {p q : Ports} (hp : s.phase = .busy) (hrst : p.rst = false)
    (hrst' : q.rst = false) : SameOutcome (step (s.withPorts p)) (step (s.withPorts q)) := by
  have hname : stepName (s.withPorts p) = stepName (s.withPorts q) :=
    stepName_congr rfl (hrst.trans hrst'.symm) (by simp [hp]) (fun _ => rfl) (by simp [hp])
  refine step_withPorts_sameOutcome hname fun hissue => ?_
  obtain ⟨-, hidle, -⟩ := stepName_eq_issue_iff.mp hissue
  simp [hp] at hidle

theorem step_withPorts_ports (s : State) : step (s.withPorts s.ports) = step s := by
  rw [step_eq_clockEdge, step_eq_clockEdge, clockEdge_withPorts_ports]

/-! ### The meaning of `GFMUL` by phase (R91, R99) -/

theorem exec_gfmul_of_idle (a b : Elem) {s : State} (hp : s.phase = .idle) :
    exec (.gfmul a b) s = .next (issueEdge Config.latency a b s) := by
  obtain ⟨-, he⟩ | ⟨hnot, -⟩ := exec_gfmul_cases a b s
  · exact he
  · contradiction

theorem exec_gfmul_of_not_idle (a b : Elem) {s : State} (hp : s.phase ≠ .idle) :
    exec (.gfmul a b) s = .next (waitEdge s) := by
  obtain ⟨hidle, -⟩ | ⟨-, he⟩ := exec_gfmul_cases a b s
  · contradiction
  · exact he

/-- No request beat transfers at an edge that is not ISSUE (R91). -/
theorem waitEdge_requestTrace (s : State) : requestTrace (waitEdge s).trace = requestTrace s.trace := by
  cases hp : s.phase with
  | idle => simp [waitEdge, hp]
  | busy => by_cases hcnt : s.cnt = 0 <;> simp [waitEdge, hp, hcnt]
  | done => cases hrsp : s.ports.rspReady <;> simp [waitEdge, hp, hrsp]

/-- `req_ready` and `rsp_valid` are never both 1 (R95). -/
theorem not_both_transfer (s : State) : ¬ (s.requestTransfers = true ∧ s.responseTransfers = true) := by
  rw [requestTransfers_eq_true_iff, responseTransfers_eq_true_iff, reqReady_eq_true_iff, rspValid_eq_true_iff]
  rintro ⟨⟨-, -, hidle⟩, -, hdone, -⟩
  simp [hidle] at hdone

/-- The traces grow by at most one beat at an edge (R95). -/
theorem clockEdge_traces_length_le (latency : Nat) (s : State) :
    (requestTrace (clockEdge latency s).trace).length + (responseTrace (clockEdge latency s).trace).length ≤
      (requestTrace s.trace).length + (responseTrace s.trace).length + 1 := by
  obtain ⟨hreqs, hrsps⟩ := clockEdge_traces latency s
  rw [hreqs, hrsps]
  have hone := not_both_transfer s
  cases hreq : s.requestTransfers with
  | true =>
    have hrsp : s.responseTransfers = false := by simpa [hreq] using hone
    simp [hrsp, Nat.add_right_comm]
  | false => cases s.responseTransfers <;> simp [Nat.add_assoc]

/-! ### Edges at which the block waits for the host (R94) -/

/-- What a HOLD edge leaves as it is: the record `S` of R17, and what the host has observed. -/
structure State.SameBlock (s t : State) : Prop where
  phase : t.phase = s.phase
  opA : t.opA = s.opA
  opB : t.opB = s.opB
  prod : t.prod = s.prod
  cnt : t.cnt = s.cnt
  trace : t.trace = s.trace

theorem State.SameBlock.refl (s : State) : s.SameBlock s := ⟨rfl, rfl, rfl, rfl, rfl, rfl⟩

theorem State.SameBlock.hold {s t : State} (h : s.SameBlock t) (latency : Nat) (hhold : stepName t = .hold) :
    s.SameBlock (clockEdge latency t) := by
  rw [clockEdge_of_hold latency hhold]
  exact ⟨h.phase, h.opA, h.opB, h.prod, h.cnt, h.trace⟩

/-- A block that is found waiting at each of `n` edges is left as it was. Whether it waits may be shown of a state that
has been left as it was so far. -/
theorem runEdges_sameBlock {latency n : Nat} {s : State}
    (h : ∀ k, k < n → s.SameBlock (runEdges latency k s) → stepName (runEdges latency k s) = .hold) :
    s.SameBlock (runEdges latency n s) := by
  induction n with
  | zero => exact .refl s
  | succ n ih =>
    have hsame := ih fun k hk => h k (by omega)
    rw [runEdges_succ_last]
    exact hsame.hold latency (h n (by omega) hsame)

/-- DONE is held for as long as the host does not take the response (R93). -/
theorem runEdges_sameBlock_of_done {latency n : Nat} {s : State} (hp : s.phase = .done)
    (h : ∀ k, k < n → (runEdges latency k s).ports.rst = false ∧ (runEdges latency k s).ports.rspReady = false) :
    s.SameBlock (runEdges latency n s) :=
  runEdges_sameBlock fun k hk hsame => stepName_eq_hold (h k hk).1 (.inr ⟨hsame.phase.trans hp, (h k hk).2⟩)

/-- IDLE lasts for as long as the host offers no request (R94). -/
theorem runEdges_sameBlock_of_idle {latency n : Nat} {s : State} (hp : s.phase = .idle)
    (h : ∀ k, k < n → (runEdges latency k s).ports.rst = false ∧ (runEdges latency k s).ports.reqValid = false) :
    s.SameBlock (runEdges latency n s) :=
  runEdges_sameBlock fun k hk hsame => stepName_eq_hold (h k hk).1 (.inl ⟨hsame.phase.trans hp, (h k hk).2⟩)

end Sys2Proof.Machine
end

section
/-! SUPPORT. The traces of a run (spec/41_gfmul_transaction.md R101): every edge keeps the responses faithful to the
requests, and without a RESET every request is expected to be answered. -/

namespace Sys2Proof.Machine

/-! ### Faithfulness by phase -/

theorem faithful_iff_of_idle {s : State} (hp : s.phase = .idle) :
    s.Faithful ↔ pendingRequest s.trace = none ∧ responseTrace s.trace = expectedResponses s.trace := by
  simp [State.Faithful, hp]

theorem faithful_iff_of_busy {s : State} (hp : s.phase = .busy) :
    s.Faithful ↔ pendingRequest s.trace = some (s.opA, s.opB) ∧
      responseTrace s.trace ++ [multiply s.opA s.opB] = expectedResponses s.trace := by
  simp [State.Faithful, hp]

theorem faithful_iff_of_done {s : State} (hp : s.phase = .done) :
    s.Faithful ↔ ∃ a b, pendingRequest s.trace = some (a, b) ∧ s.prod = some (multiply a b) ∧
      responseTrace s.trace ++ [multiply a b] = expectedResponses s.trace := by
  simp [State.Faithful, hp]

/-- Outside IDLE one transaction is in flight, and its product is the one response expected and not given yet. -/
theorem State.Faithful.in_flight {s : State} (h : s.Faithful) (hp : s.phase ≠ .idle) :
    ∃ a b, pendingRequest s.trace = some (a, b) ∧
      responseTrace s.trace ++ [multiply a b] = expectedResponses s.trace := by
  cases hphase : s.phase with
  | idle => contradiction
  | busy =>
    obtain ⟨hpending, hresp⟩ := (faithful_iff_of_busy hphase).mp h
    exact ⟨s.opA, s.opB, hpending, hresp⟩
  | done =>
    obtain ⟨a, b, hpending, -, hresp⟩ := (faithful_iff_of_done hphase).mp h
    exact ⟨a, b, hpending, hresp⟩

/-- In every phase the responses given are the first of those expected. -/
theorem State.Faithful.responseTrace_eq_take_expected {s : State} (h : s.Faithful) :
    responseTrace s.trace = (expectedResponses s.trace).take (responseTrace s.trace).length := by
  by_cases hp : s.phase = .idle
  · obtain ⟨-, hresp⟩ := (faithful_iff_of_idle hp).mp h
    rw [← hresp, List.take_length]
  · obtain ⟨a, b, -, hresp⟩ := h.in_flight hp
    rw [← hresp, List.take_left]

/-! ### Every edge keeps it -/

/-- R124: a RESET takes the transaction in flight, if there is one, out of what is expected. -/
theorem State.Faithful.after_reset {s : State} (h : s.Faithful) (latency : Nat) : (resetEdge latency s).Faithful := by
  refine (faithful_iff_of_idle (resetEdge_phase ..)).mpr ⟨rfl, ?_⟩
  rw [resetEdge_trace, responseTrace_reset]
  by_cases hp : s.phase = .idle
  · obtain ⟨hpending, hresp⟩ := (faithful_iff_of_idle hp).mp h
    rw [expectedResponses_reset_of_none hpending, hresp]
  · obtain ⟨a, b, hpending, hresp⟩ := h.in_flight hp
    rw [expectedResponses_reset_of_pending hpending, ← hresp, List.dropLast_concat]

theorem faithful_issueEdge {s : State} (h : s.Faithful) (hp : s.phase = .idle) (latency : Nat) (a b : Elem) :
    (issueEdge latency a b s).Faithful := by
  obtain ⟨-, hresp⟩ := (faithful_iff_of_idle hp).mp h
  exact (faithful_iff_of_busy (issueEdge_phase ..)).mpr ⟨rfl, by simp [hresp]⟩

theorem faithful_executeEdge {s : State} (h : s.Faithful) (hp : s.phase = .busy) : (executeEdge s).Faithful := by
  obtain ⟨hpending, hresp⟩ := (faithful_iff_of_busy hp).mp h
  exact (faithful_iff_of_done (executeEdge_phase s)).mpr ⟨s.opA, s.opB, hpending, rfl, hresp⟩

theorem faithful_retireEdge {s : State} (h : s.Faithful) (hp : s.phase = .done) : (retireEdge s).Faithful := by
  obtain ⟨a, b, -, hprod, hresp⟩ := (faithful_iff_of_done hp).mp h
  refine (faithful_iff_of_idle (retireEdge_phase s)).mpr ⟨rfl, ?_⟩
  simp [rspP_of_done hp hprod, hresp]

/-- R101, resets included, for every LATENCY. TICK and HOLD change nothing that faithfulness speaks of. -/
theorem State.Faithful.after_edge {s : State} (h : s.Faithful) (latency : Nat) : (clockEdge latency s).Faithful := by
  obtain ⟨-, he⟩ | ⟨-, hp, -, he⟩ | ⟨-, -, -, he⟩ | ⟨-, -, -, he⟩ | ⟨-, hp, -, he⟩ | ⟨-, hp, -, he⟩ |
    ⟨-, -, -, he⟩ := clockEdge_cases latency s <;> rw [he]
  · exact h.after_reset latency
  · exact faithful_issueEdge h hp latency _ _
  · exact h
  · exact h
  · exact faithful_executeEdge h hp
  · exact faithful_retireEdge h hp
  · exact h

theorem State.Faithful.after_edges {s : State} (h : s.Faithful) (latency n : Nat) :
    (runEdges latency n s).Faithful := by
  induction n generalizing s with
  | zero => exact h
  | succ n ih => exact ih (h.after_edge latency)

/-- A reset that comes first of all expects nothing. -/
@[simp] theorem expectedResponses_reset_nil : expectedResponses [.reset] = [] := rfl

/-- A RESET step makes a block faithful whose host has observed nothing yet, whatever its contents. -/
theorem faithful_resetEdge_of_trace_nil {s : State} (h : s.trace = []) (latency : Nat) :
    (resetEdge latency s).Faithful :=
  (faithful_iff_of_idle (resetEdge_phase ..)).mpr (by simp [h])

/-! ### Without a RESET every request is answered -/

/-- The expected response trace is `MULTIPLY` of the whole request trace: no request has been discarded. -/
def State.ExpectsAll (s : State) : Prop :=
  expectedResponses s.trace = (requestTrace s.trace).map fun ab => multiply ab.1 ab.2

theorem State.ExpectsAll.after_edge {s : State} (h : s.ExpectsAll) (latency : Nat) (hrst : s.ports.rst = false) :
    (clockEdge latency s).ExpectsAll := by
  unfold State.ExpectsAll at *
  obtain ⟨hrst', -⟩ | ⟨-, -, -, he⟩ | ⟨-, -, -, he⟩ | ⟨-, -, -, he⟩ | ⟨-, -, -, he⟩ | ⟨-, -, -, he⟩ |
    ⟨-, -, -, he⟩ := clockEdge_cases latency s
  · simp [hrst] at hrst'
  · simp [he, h]
  · simp [he, h]
  · simp [he, h]
  · simp [he, h]
  · simp [he, h]
  · simp [he, h]

theorem State.ExpectsAll.after_edges {latency n : Nat} {s : State} (h : s.ExpectsAll) (hrst : NoReset latency n s) :
    (runEdges latency n s).ExpectsAll := by
  induction n generalizing s with
  | zero => exact h
  | succ n ih => exact ih (h.after_edge latency (hrst 0 (Nat.succ_pos n))) hrst.after_edge

theorem expectsAll_resetEdge_of_trace_nil {s : State} (h : s.trace = []) (latency : Nat) :
    (resetEdge latency s).ExpectsAll := by
  simp [State.ExpectsAll, h]

/-! ### The response trace of a faithful block -/

theorem State.Faithful.responseTrace_eq_of_idle {s : State} (h : s.Faithful) (hp : s.phase = .idle) :
    responseTrace s.trace = expectedResponses s.trace :=
  ((faithful_iff_of_idle hp).mp h).2

theorem State.Faithful.responseTrace_eq_take {s : State} (h : s.Faithful) (hall : s.ExpectsAll) :
    responseTrace s.trace =
      ((requestTrace s.trace).take (responseTrace s.trace).length).map fun ab => multiply ab.1 ab.2 := by
  rw [List.map_take, ← hall]
  exact h.responseTrace_eq_take_expected

theorem State.ExpectsAll.length_eq {s : State} (h : s.ExpectsAll) :
    (expectedResponses s.trace).length = (requestTrace s.trace).length := by
  rw [h, List.length_map]

theorem State.Faithful.length_responseTrace_of_idle {s : State} (h : s.Faithful) (hall : s.ExpectsAll)
    (hp : s.phase = .idle) : (responseTrace s.trace).length = (requestTrace s.trace).length := by
  rw [← hall.length_eq, h.responseTrace_eq_of_idle hp]

theorem State.Faithful.length_responseTrace_of_not_idle {s : State} (h : s.Faithful) (hall : s.ExpectsAll)
    (hp : s.phase ≠ .idle) : (responseTrace s.trace).length + 1 = (requestTrace s.trace).length := by
  obtain ⟨a, b, -, hresp⟩ := h.in_flight hp
  rw [← hall.length_eq, ← hresp, List.length_append, List.length_singleton]

theorem phase_of_ended {s : State} (h : s.ended = true) : s.phase = .idle := by
  simp only [State.ended, Bool.and_eq_true] at h
  obtain ⟨⟨hready, -⟩, -⟩ := h
  exact (reqReady_eq_true_iff s).mp hready

end Sys2Proof.Machine
end

section
/-! SUPPORT. The timing of the handshake as a two-run invariant (spec/41_gfmul_transaction.md R100). -/

namespace Sys2Proof.Machine

theorem State.SameTiming.handshake_eq {s t : State} (h : s.SameTiming t) : s.handshake = t.handshake := by
  obtain ⟨hp, -, -⟩ := h
  simp [State.handshake, reqReady_eq_decide, rspValid_eq_decide, hp]

/-- Where a script goes on, so does the other, with the same handshake inputs at the coming edge. -/
theorem State.SameTiming.ports {s t : State} (h : s.SameTiming t) (hs : 0 < s.script.length) :
    s.ports.sameHandshake t.ports := by
  obtain ⟨-, -, hscript⟩ := h
  obtain ⟨p, rest, hcons⟩ := List.exists_cons_of_length_pos hs
  rw [hcons] at hscript
  obtain ⟨q, rest', hpq, -, hcons'⟩ := List.forall₂_cons_left_iff.mp hscript
  rwa [ports_of_script_cons hcons, ports_of_script_cons hcons']

/-- The row of an edge is chosen by the phase, the count in BUSY and the handshake inputs, never by an operand. -/
theorem State.SameTiming.stepName_eq {s t : State} (h : s.SameTiming t) (hs : 0 < s.script.length) :
    stepName s = stepName t := by
  obtain ⟨hrst, hreq, hrsp⟩ := h.ports hs
  obtain ⟨hp, hcnt, -⟩ := h
  exact stepName_congr hp hrst (fun _ => hreq) hcnt fun _ => hrsp

/-- No row writes the phase or loads the count by an operand, so the next edge finds the same timing again. -/
theorem State.SameTiming.after_edge {s t : State} (h : s.SameTiming t) (hs : 0 < s.script.length) (latency : Nat) :
    (clockEdge latency s).SameTiming (clockEdge latency t) := by
  have hname := h.stepName_eq hs
  obtain ⟨hp, hcnt, hscript⟩ := h
  refine ⟨?_, ?_, by simpa using List.forall₂_drop 1 hscript⟩
  all_goals rw [clockEdge, clockEdge, ← hname]
  · cases stepName s with
    | reset => rfl
    | issue => rfl
    | tick => exact hp
    | execute => rfl
    | retire => rfl
    | hold => exact hp
  · cases stepName s with
    | reset => exact nofun
    | issue => exact fun _ => rfl
    | tick => exact fun hb => congrArg (· - 1) (hcnt hb)
    | execute => exact nofun
    | retire => exact nofun
    | hold => exact hcnt

theorem State.SameTiming.after_edges {s t : State} (h : s.SameTiming t) {n : Nat} (hs : n ≤ s.script.length)
    (latency : Nat) : (runEdges latency n s).SameTiming (runEdges latency n t) := by
  induction n with
  | zero => exact h
  | succ n ih =>
    rw [runEdges_succ_last, runEdges_succ_last]
    have hleft : 0 < (runEdges latency n s).script.length := by rw [runEdges_script, List.length_drop]; omega
    exact (ih (by omega)).after_edge hleft latency

end Sys2Proof.Machine
end

section
/-! SUPPORT. Edges as steps of the transaction-level machine (spec/41_gfmul_transaction.md R95, R97), and the requests of
the host's fold (R103). -/

namespace Sys2Proof.Machine

/-- Every row of R97 but TICK is the step of R95 of the same name; RETIRE's beat is the held result. -/
theorem clockEdge_refines (latency : Nat) {s : State} (hheld : s.phase = .done → s.prod.isSome) :
    (∃ l, transactionLabel s = some l ∧ TStep s.transactionView l (clockEdge latency s).transactionView) ∨
    (transactionLabel s = none ∧ s.phase = .busy ∧ (clockEdge latency s).transactionView = s.transactionView) := by
  obtain ⟨hrst, he⟩ | ⟨hrst, hp, hreq, he⟩ | ⟨hrst, hp, hreq, he⟩ | ⟨hrst, hp, hcnt, he⟩ | ⟨hrst, hp, hcnt, he⟩ |
    ⟨hrst, hp, hrsp, he⟩ | ⟨hrst, hp, hrsp, he⟩ := clockEdge_cases latency s <;> rw [he]
  · exact .inl ⟨.reset, by simp [transactionLabel, stepName_of_rst hrst], .reset ..⟩
  · have hname : stepName s = .issue := stepName_eq_issue_iff.mpr ⟨hrst, hp, hreq⟩
    exact .inl ⟨.issue s.ports.reqA s.ports.reqB, by simp [transactionLabel, hname], .issue _ _ _ _ hp⟩
  · have hname : stepName s = .hold := stepName_eq_hold hrst (.inl ⟨hp, hreq⟩)
    exact .inl ⟨.hold, by simp [transactionLabel, hname], .hold _ (by simp [State.transactionView, hp])⟩
  · have hname : stepName s = .tick := stepName_eq_tick hrst hp hcnt
    exact .inr ⟨by simp [transactionLabel, hname], hp, rfl⟩
  · have hname : stepName s = .execute := stepName_eq_execute hrst hp hcnt
    exact .inl ⟨.execute, by simp [transactionLabel, hname], .execute _ _ _ hp⟩
  · have hname : stepName s = .retire := stepName_eq_retire_iff.mpr ⟨hrst, hp, hrsp⟩
    obtain ⟨p, hprod⟩ := Option.isSome_iff_exists.mp (hheld hp)
    exact .inl ⟨.retire p, by simp [transactionLabel, hname, rspP_of_done hp hprod], .retire _ _ _ _ hp hprod⟩
  · have hname : stepName s = .hold := stepName_eq_hold hrst (.inr ⟨hp, hrsp⟩)
    exact .inl ⟨.hold, by simp [transactionLabel, hname], .hold _ (by simp [State.transactionView, hp])⟩

theorem foldRequests_eq_flatten (order : ByteOrder) (rows : List (Elem × List (List Byte))) :
    foldRequests order rows =
      (rows.map fun row => row.2.map fun block => Instr.gfmul row.1 (operandOfBlock order block)).flatten := by
  induction rows with
  | nil => rfl
  | cons row rows ih => rw [foldRequests, ih, List.map_cons, List.flatten_cons]

end Sys2Proof.Machine
end

section
/-! SUPPORT. The edges of a transaction by their number (spec/41_gfmul_transaction.md R98). -/

namespace Sys2Proof.Machine

/-- The block as edge `m` of a transaction finds it, ISSUE being edge 0 and RETIRE, taken at once, edge LATENCY + 1. -/
def State.AtEdge (latency m : Nat) (s : State) : Prop :=
  (m = 0 ∧ s.phase = .idle) ∨ (m ≠ 0 ∧ s.phase = .busy ∧ s.cnt + m = latency) ∨ (m = latency + 1 ∧ s.phase = .done)

theorem atEdge_issueEdge {latency : Nat} (hlat : 1 ≤ latency) (a b : Elem) (s : State) :
    (issueEdge latency a b s).AtEdge latency 1 := .inr (.inl ⟨one_ne_zero, rfl, Nat.sub_add_cancel hlat⟩)

theorem State.AtEdge.busy {latency m : Nat} {s : State} (h : s.AtEdge latency m) (hm : m ≠ 0) (hle : m ≤ latency) :
    s.phase = .busy ∧ s.cnt + m = latency := by
  obtain ⟨hzero, -⟩ | ⟨-, hbusy⟩ | ⟨hlast, -⟩ := h
  · contradiction
  · exact hbusy
  · omega

theorem State.AtEdge.done {latency : Nat} {s : State} (h : s.AtEdge latency (latency + 1)) : s.phase = .done := by
  obtain ⟨hzero, -⟩ | ⟨-, -, hcnt⟩ | ⟨-, hdone⟩ := h
  · omega
  · omega
  · exact hdone

/-- In BUSY the next edge comes by itself: a TICK, or EXECUTE at edge LATENCY. -/
theorem State.AtEdge.after_busy {latency m : Nat} {s : State} (h : s.AtEdge latency m) (hm : m ≠ 0) (hle : m ≤ latency)
    (hrst : s.ports.rst = false) : (clockEdge latency s).AtEdge latency (m + 1) := by
  obtain ⟨hp, hcnt⟩ := h.busy hm hle
  by_cases hzero : s.cnt = 0
  · rw [clockEdge_of_execute latency (stepName_eq_execute hrst hp hzero)]
    exact .inr (.inr ⟨by omega, rfl⟩)
  · rw [clockEdge_of_tick latency (stepName_eq_tick hrst hp hzero)]
    exact .inr (.inl ⟨by omega, hp, by rw [countEdge_cnt]; omega⟩)

theorem State.AtEdge.after_edges {latency m k : Nat} {s : State} (h : s.AtEdge latency m) (hm : m ≠ 0)
    (hle : m + k ≤ latency + 1) (hrst : NoReset latency k s) : (runEdges latency k s).AtEdge latency (m + k) := by
  induction k with
  | zero => exact h
  | succ k ih =>
    have hk := ih (by omega) fun j hj => hrst j (by omega)
    rw [runEdges_succ_last]
    exact hk.after_busy (by omega) (by omega) (hrst k (by omega))

/-! ### From ISSUE on -/

theorem runEdges_atEdge_of_issue {latency k : Nat} (hlat : 1 ≤ latency) {s : State} (hissue : stepName s = .issue)
    (hk : k ≤ latency) (hrst : NoReset latency (k + 1) s) : (runEdges latency (k + 1) s).AtEdge latency (k + 1) := by
  have hfirst : (clockEdge latency s).AtEdge latency 1 := by
    rw [clockEdge_of_issue latency hissue]
    exact atEdge_issueEdge hlat ..
  rw [runEdges_succ, Nat.add_comm k 1]
  exact hfirst.after_edges one_ne_zero (by omega) hrst.after_edge

/-- Edges 1 to LATENCY find the block in BUSY, the count telling which of them it is. -/
theorem runEdges_busy_of_issue {latency k : Nat} {s : State} (hissue : stepName s = .issue) (hk : 1 ≤ k)
    (hle : k ≤ latency) (hrst : NoReset latency k s) :
    (runEdges latency k s).phase = .busy ∧ (runEdges latency k s).cnt + k = latency := by
  obtain ⟨j, rfl⟩ : ∃ j, k = j + 1 := ⟨k - 1, by omega⟩
  exact (runEdges_atEdge_of_issue (by omega) hissue (by omega) hrst).busy (by omega) hle

/-- From edge LATENCY + 1 on the block is in DONE, until the host takes the response. -/
theorem runEdges_done_of_issue {latency k : Nat} (hlat : 1 ≤ latency) {s : State} (hissue : stepName s = .issue)
    (hk : latency + 1 ≤ k) (hrst : NoReset latency k s)
    (hrsp : ∀ j, latency + 1 ≤ j → j < k → (runEdges latency j s).ports.rspReady = false) :
    (runEdges latency k s).phase = .done := by
  obtain ⟨j, rfl⟩ := Nat.exists_eq_add_of_le hk
  have hdone : (runEdges latency (latency + 1) s).phase = .done :=
    (runEdges_atEdge_of_issue hlat hissue le_rfl fun i hi => hrst i (by omega)).done
  rw [runEdges_add]
  refine (runEdges_sameBlock_of_done hdone fun i hi => ?_).phase.trans hdone
  rw [← runEdges_add]
  exact ⟨hrst _ (by omega), hrsp _ (by omega) (by omega)⟩

/-- The block is back in IDLE at no edge from the first one up to RETIRE. -/
theorem runEdges_not_idle_of_issue {latency k : Nat} (hlat : 1 ≤ latency) {s : State} (hissue : stepName s = .issue)
    (hk : 1 ≤ k) (hrst : NoReset latency k s)
    (hrsp : ∀ j, latency + 1 ≤ j → j < k → (runEdges latency j s).ports.rspReady = false) :
    (runEdges latency k s).phase ≠ .idle := by
  by_cases hle : k ≤ latency
  · obtain ⟨hbusy, -⟩ := runEdges_busy_of_issue hissue hk hle hrst
    simp [hbusy]
  · simp [runEdges_done_of_issue hlat hissue (by omega) hrst hrsp]

/-! ### A host that is always ready and always has a request -/

/-- The three inputs of such a host at one edge. -/
def Ports.Eager (p : Ports) : Prop := p.rst = false ∧ p.reqValid = true ∧ p.rspReady = true

/-- An eager host lets no edge pass: the transaction is one edge further, and after edge LATENCY + 1 the next one begins. -/
theorem State.AtEdge.after_eager {latency m : Nat} (hlat : 1 ≤ latency) {s : State} (h : s.AtEdge latency m)
    (hm : m < latency + 2) (heager : s.ports.Eager) : (clockEdge latency s).AtEdge latency ((m + 1) % (latency + 2)) := by
  obtain ⟨hrst, hreq, hrsp⟩ := heager
  by_cases hlast : m = latency + 1
  · subst hlast
    rw [clockEdge_of_retire latency (stepName_eq_retire_iff.mpr ⟨hrst, h.done, hrsp⟩), Nat.mod_self]
    exact .inl ⟨rfl, rfl⟩
  · rw [Nat.mod_eq_of_lt (by omega)]
    have hplace := h
    obtain ⟨rfl, hp⟩ | ⟨hpos, -⟩ | ⟨hend, -⟩ := hplace
    · rw [clockEdge_of_issue latency (stepName_eq_issue_iff.mpr ⟨hrst, hp, hreq⟩)]
      exact atEdge_issueEdge hlat ..
    · exact h.after_busy hpos (by omega) hrst
    · contradiction

theorem runEdges_atEdge_of_eager {latency k : Nat} (hlat : 1 ≤ latency) {s : State} (hp : s.phase = .idle)
    (heager : ∀ j, j < k → (runEdges latency j s).ports.Eager) :
    (runEdges latency k s).AtEdge latency (k % (latency + 2)) := by
  induction k with
  | zero => exact .inl ⟨Nat.zero_mod _, hp⟩
  | succ k ih =>
    have hk := ih fun j hj => heager j (by omega)
    rw [runEdges_succ_last, ← Nat.mod_add_mod]
    exact hk.after_eager hlat (Nat.mod_lt _ (by omega)) (heager k (by omega))

/-- With an eager host ISSUE is at edge 0 of each transaction and RETIRE at edge LATENCY + 1, and at no other. -/
theorem State.AtEdge.stepName_iff {latency m : Nat} {s : State} (h : s.AtEdge latency m) (heager : s.ports.Eager) :
    (stepName s = .issue ↔ m = 0) ∧ (stepName s = .retire ↔ m = latency + 1) := by
  obtain ⟨hrst, hreq, hrsp⟩ := heager
  rw [stepName_eq_issue_iff, stepName_eq_retire_iff]
  obtain ⟨rfl, hp⟩ | ⟨hpos, hp, hcnt⟩ | ⟨rfl, hp⟩ := h
  · simp [hrst, hreq, hp]
  · have hlast : m ≠ latency + 1 := by omega
    simp [hp, hpos, hlast]
  · simp [hrst, hrsp, hp]

end Sys2Proof.Machine
end

section
/-! The statements of spec/41_gfmul_transaction.md, settled. -/

namespace Sys2Proof.Proofs

open Sys2Proof.Machine

/-- Settles O50: the step is a clocked edge, and every row of R97 keeps faithfulness. -/
theorem stepKeepsFaithfulness : Obligations.StepKeepsFaithfulness := by
  intro s t hs hstep
  rw [← step_eq_next_iff.mp hstep]
  exact hs.after_edge Config.latency

/-- Settles O54: the two runs stay in states of the same timing, whose phases and rows agree. -/
theorem handshakeTimingHidesOperands : Obligations.HandshakeTimingHidesOperands := by
  intro n s t h hn
  have hsame := h.after_edges hn Config.latency
  refine ⟨_, _, core_run_eq_runEdges n s, core_run_eq_runEdges n t, hsame.handshake_eq, hsame, fun hlt => ?_⟩
  have hleft : 0 < (runEdges Config.latency n s).script.length := by rw [runEdges_script, List.length_drop]; omega
  exact hsame.stepName_eq hleft

/-- Settles O29. -/
theorem runsAreClockEdges : Obligations.RunsAreClockEdges :=
  ⟨one_le_configLatency, step_eq_clockEdge, core_run_eq_runEdges⟩

/-- Settles O31: after ISSUE the block is at edge 1 of the transaction, and in BUSY until EXECUTE at edge LATENCY. -/
theorem gfmulDeliversTheProduct : Obligations.GfmulDeliversTheProduct := by
  intro a b s hp
  have hlat := one_le_configLatency
  have hcnt : (issueEdge Config.latency a b s).cnt + 1 = Config.latency := Nat.sub_add_cancel hlat
  refine ⟨issueEdge Config.latency a b s, exec_gfmul_of_idle a b hp, rfl, rfl, rfl, fun hrst => ⟨fun k hk => ?_, ?_⟩⟩
  · have hedge := (atEdge_issueEdge hlat a b s).after_edges (k := k) one_ne_zero (by omega) fun j hj => hrst j (by omega)
    obtain ⟨hbusy, -⟩ := hedge.busy (by omega) (by omega)
    exact ⟨_, core_run_eq_runEdges k _, hbusy, by simp [rspValid_eq_decide, hbusy]⟩
  · obtain ⟨hdone, hprod, htrace⟩ :=
      runEdges_of_busy (latency := Config.latency) (issueEdge_phase Config.latency a b s) (hcnt.symm ▸ hrst)
    rw [hcnt] at hdone hprod htrace
    exact ⟨_, core_run_eq_runEdges _ _, hdone, hprod, (rspValid_eq_true_iff _).mpr hdone, rspP_of_done hdone hprod, htrace⟩

/-- Settles O32. -/
theorem transactionCompletes : Obligations.TransactionCompletes := by
  rintro latency a b s offer take waits rest hlat hp hs hoffer hreq rfl rfl hlen hwaits htake hrsp
  exact runEdges_transaction hlat hp hs hoffer hreq hlen hwaits htake hrsp

/-- Settles O34: RETIRE sends what stands on `rsp_p`, and an edge without `rsp_ready` is a HOLD. -/
theorem retireTransfersTheHeldResult : Obligations.RetireTransfersTheHeldResult := by
  refine ⟨fun s p hrst hp hprod hrsp => ?_, fun n s p hp hprod hwait => ?_⟩
  · have hedge := clockEdge_of_retire Config.latency (stepName_eq_retire_iff.mpr ⟨hrst, hp, hrsp⟩)
    exact ⟨retireEdge s, step_eq_next_iff.mpr hedge, rfl, rfl, rfl, by rw [retireEdge_trace, rspP_of_done hp hprod], rfl, rfl⟩
  · have hsame := runEdges_sameBlock_of_done hp hwait
    have hdone := hsame.phase.trans hp
    have hheld := hsame.prod.trans hprod
    exact ⟨_, core_run_eq_runEdges n s, hdone, hheld, (rspValid_eq_true_iff _).mpr hdone, rspP_of_done hdone hheld,
      hsame.trace⟩

/-- Settles O35: a HOLD edge leaves the block as it was, so the next input finds the same phase. -/
theorem holdKeepsTheBlock : Obligations.HoldKeepsTheBlock := by
  refine ⟨fun s hrst hwait => ?_, fun n s hp hwait => ?_⟩
  · obtain ⟨hphase, hopA, hopB, hprod, hcnt, htrace⟩ :=
      (State.SameBlock.refl s).hold Config.latency (stepName_eq_hold hrst hwait)
    exact ⟨_, step_eq_clockEdge s, hphase, hopA, hopB, hprod, hcnt, htrace,
      fun p hprst hreq hidle => stepName_eq_issue_iff.mpr ⟨hprst, hidle, hreq⟩,
      fun p hprst hrsp hdone => stepName_eq_retire_iff.mpr ⟨hprst, hdone, hrsp⟩⟩
  · have hsame := runEdges_sameBlock_of_idle hp hwait
    exact ⟨_, core_run_eq_runEdges n s, hsame.phase.trans hp, hsame.prod, hsame.trace⟩

/-- Settles O36: the guard of each row gives its name, and the name the edge. -/
theorem stepFollowsTheTable : Obligations.StepFollowsTheTable := by
  refine fun s => ⟨_, step_eq_clockEdge s, fun hrst => ?reset, fun hrst hp hreq => ?issue, fun hrst hp hreq => ?holdIdle,
    fun hrst hp hcnt => ?tick, fun hrst hp hcnt => ?execute, fun hrst hp hrsp => ?retire, fun hrst hp hrsp => ?holdDone,
    clockEdge_script _ s, clockEdge_edge _ s⟩
  case reset =>
    rw [clockEdge_of_rst _ hrst]
    exact ⟨rfl, rfl, rfl⟩
  case issue =>
    rw [clockEdge_of_issue _ (stepName_eq_issue_iff.mpr ⟨hrst, hp, hreq⟩)]
    exact ⟨rfl, rfl, rfl, rfl, rfl, rfl⟩
  case holdIdle =>
    rw [clockEdge_of_hold _ (stepName_eq_hold hrst (.inl ⟨hp, hreq⟩))]
    exact ⟨hp, rfl, rfl, rfl, rfl, rfl⟩
  case tick =>
    rw [clockEdge_of_tick _ (stepName_eq_tick hrst hp hcnt.ne')]
    exact ⟨hp, rfl, rfl, rfl, rfl, rfl⟩
  case execute =>
    rw [clockEdge_of_execute _ (stepName_eq_execute hrst hp hcnt)]
    exact ⟨rfl, rfl, rfl, rfl⟩
  case retire =>
    rw [clockEdge_of_retire _ (stepName_eq_retire_iff.mpr ⟨hrst, hp, hrsp⟩)]
    exact ⟨rfl, rfl, rfl, rfl⟩
  case holdDone =>
    rw [clockEdge_of_hold _ (stepName_eq_hold hrst (.inr ⟨hp, hrsp⟩))]
    exact ⟨hp, rfl, rfl, rfl, rfl, rfl⟩

/-- Settles O37: edges 1 to LATENCY find BUSY with the count running out, later ones DONE until the response is taken; an
eager host makes the edge number run modulo LATENCY + 2. -/
theorem edgeArithmetic : Obligations.EdgeArithmetic := by
  refine fun latency hlat => ⟨fun s r hissue hr hrst hwait htake => ?_, fun s n hp heager k hk => ?_⟩
  · have hnoReset (k : Nat) (hk : k ≤ r) : NoReset latency k s := fun j hj => hrst j (by omega)
    have hbusy (k : Nat) (hk : 1 ≤ k) (hle : k ≤ latency) := runEdges_busy_of_issue hissue hk hle (hnoReset k (by omega))
    have hdone (k : Nat) (hk : latency + 1 ≤ k) (hle : k ≤ r) : (runEdges latency k s).phase = .done :=
      runEdges_done_of_issue hlat hissue hk (hnoReset k hle) fun j hj hjk => hwait j hj (by omega)
    have hnotIdle (k : Nat) (hk : 1 ≤ k) (hle : k ≤ r) : (runEdges latency k s).phase ≠ .idle :=
      runEdges_not_idle_of_issue hlat hissue hk (hnoReset k hle) fun j hj hjk => hwait j hj (by omega)
    have hretire : stepName (runEdges latency r s) = .retire :=
      stepName_eq_retire_iff.mpr ⟨hrst r (by omega), hdone r hr le_rfl, htake⟩
    refine ⟨fun k hk hlt => ?tick, ?execute, fun k hle => ?notYet, fun k hk hle => ?valid, fun k hk hlt => ?hold, hretire,
      fun k hk hle => ⟨?notReady, ?notIssue⟩, ?ready⟩
    case tick =>
      obtain ⟨hphase, hcnt⟩ := hbusy k hk hlt.le
      exact stepName_eq_tick (hrst k (by omega)) hphase (by omega)
    case execute =>
      obtain ⟨hphase, hcnt⟩ := hbusy latency hlat le_rfl
      exact stepName_eq_execute (hrst latency (by omega)) hphase (by omega)
    case notYet =>
      rw [rspValid_eq_decide, decide_eq_false_iff_not]
      obtain rfl | hk := Nat.eq_zero_or_pos k
      · obtain ⟨-, hidle, -⟩ := stepName_eq_issue_iff.mp hissue
        simp [hidle]
      · simp [hbusy k hk hle]
    case valid => exact (rspValid_eq_true_iff _).mpr (hdone k hk hle)
    case hold => exact stepName_eq_hold (hrst k (by omega)) (.inr ⟨hdone k hk hlt.le, hwait k hk hlt⟩)
    case notReady => rw [reqReady_eq_decide, decide_eq_false_iff_not]; exact hnotIdle k hk hle
    case notIssue =>
      intro hname
      obtain ⟨-, hidle, -⟩ := stepName_eq_issue_iff.mp hname
      exact hnotIdle k hk hle hidle
    case ready => rw [runEdges_succ_last, clockEdge_of_retire latency hretire]; rfl
  · have hedge := runEdges_atEdge_of_eager (k := k) hlat hp fun j hj => heager j (by omega)
    exact hedge.stepName_iff (heager k hk)

/-- Settles O38: inputs that a phase does not look at do not change the row that is taken. -/
theorem coincidentInputs : Obligations.CoincidentInputs := by
  refine ⟨fun s hrst hp _ hrsp => ?_, fun s p q hp => step_withPorts_of_busy hp, fun s p b hp => ?_,
    fun s p q hp hrst hrsp => ?_, fun s p q hrst hrst' => ?_, fun s p => ⟨_, step_eq_clockEdge _⟩⟩
  · have hretire : stepName s = .retire := stepName_eq_retire_iff.mpr ⟨hrst, hp, hrsp⟩
    exact ⟨retireEdge s, step_eq_next_iff.mpr (clockEdge_of_retire _ hretire), hretire, rfl, rfl,
      fun hrst' hreq' => stepName_eq_issue_iff.mpr ⟨hrst', rfl, hreq'⟩⟩
  · exact step_withPorts_sameOutcome
      (stepName_congr rfl rfl (fun _ => rfl) (fun _ => rfl) (by simp [hp])) fun _ => ⟨rfl, rfl⟩
  · have hname : stepName (s.withPorts p) = stepName (s.withPorts q) :=
      stepName_congr rfl hrst (by simp [hp]) (fun _ => rfl) fun _ => hrsp
    refine step_withPorts_sameOutcome hname fun hissue => ?_
    obtain ⟨-, hidle, -⟩ := stepName_eq_issue_iff.mp hissue
    simp [hp] at hidle
  · have hreset : stepName (s.withPorts p) = .reset := stepName_of_rst hrst
    have hreset' : stepName (s.withPorts q) = .reset := stepName_of_rst hrst'
    exact ⟨hreset, step_withPorts_sameOutcome (hreset.trans hreset'.symm) fun hissue => by simp [hreset'] at hissue,
      _, step_eq_next_iff.mpr (clockEdge_of_rst _ hrst), rfl, rfl, rfl⟩

/-- Settles O40: each phase has a row that leaves it; ISSUE needs IDLE and RETIRE needs DONE, so never both. -/
theorem noStateIsStuck : Obligations.NoStateIsStuck := by
  refine ⟨fun s => ⟨_, step_eq_clockEdge s⟩, fun s hp => ?leaveIdle, fun s hp hrst => ?leaveBusy, fun s hp => ?leaveDone,
    fun s => ?reset, fun s p q ⟨hissue, hretire⟩ => ?notBoth, fun s ⟨hreq, hrsp⟩ => ?oneTransfer, fun s t hstep => ?oneBeat⟩
  case leaveIdle =>
    have hissue : stepName (s.withPorts (offerBeat 0 0)) = .issue := stepName_eq_issue_iff.mpr ⟨rfl, hp, rfl⟩
    exact ⟨offerBeat 0 0, _, step_eq_next_iff.mpr (clockEdge_of_issue _ hissue), rfl⟩
  case leaveBusy =>
    obtain ⟨hdone, -, -⟩ := runEdges_of_busy hp hrst
    exact ⟨_, core_run_eq_runEdges _ s, hdone⟩
  case leaveDone =>
    have hretire : stepName (s.withPorts (takeBeat 0 0)) = .retire := stepName_eq_retire_iff.mpr ⟨rfl, hp, rfl⟩
    exact ⟨takeBeat 0 0, _, step_eq_next_iff.mpr (clockEdge_of_retire _ hretire), rfl⟩
  case reset => exact ⟨resetBeat, _, stepName_of_rst rfl, step_eq_next_iff.mpr (clockEdge_of_rst _ rfl), rfl⟩
  case notBoth =>
    obtain ⟨-, hidle, -⟩ := stepName_eq_issue_iff.mp hissue
    obtain ⟨-, hdone, -⟩ := stepName_eq_retire_iff.mp hretire
    rw [withPorts_phase] at hidle hdone
    simp [hidle] at hdone
  case oneTransfer => exact not_both_transfer s ⟨hreq, hrsp⟩
  case oneBeat =>
    rw [← step_eq_next_iff.mp hstep]
    exact clockEdge_traces_length_le Config.latency s

/-- Settles O52: the run stays faithful, and as long as no request is discarded all of them are expected to be answered. -/
theorem responseTraceIsMultiplyOfRequestTrace : Obligations.ResponseTraceIsMultiplyOfRequestTrace := by
  intro latency n s _ htrace hrst
  rw [runEdges_succ, clockEdge_of_rst latency hrst]
  have hfaithful := (faithful_resetEdge_of_trace_nil htrace latency).after_edges latency n
  refine ⟨fun hnoReset => ?_, hfaithful.responseTrace_eq_of_idle, fun hp => ?_⟩
  · have hall := (expectsAll_resetEdge_of_trace_nil htrace latency).after_edges hnoReset
    exact ⟨hfaithful.responseTrace_eq_take hall, fun hp => hfaithful.length_responseTrace_of_idle hall hp,
      fun hp => hfaithful.length_responseTrace_of_not_idle hall hp,
      fun hended => (hfaithful.responseTrace_eq_of_idle (phase_of_ended hended)).trans hall⟩
  · obtain ⟨a, b, -, hresp⟩ := hfaithful.in_flight hp
    exact ⟨_, hresp⟩

/-- Settles O55: each row of R97 is the step of R95 of the same name, and TICK touches the count alone. -/
theorem edgesRefineTransactionSteps : Obligations.EdgesRefineTransactionSteps := by
  intro s t ⟨hheld, _⟩ hstep
  rw [← step_eq_next_iff.mp hstep]
  exact clockEdge_refines Config.latency hheld.mpr

/-- Settles O30: ISSUE in IDLE; in the other phases `GFMUL` is the block's own row, which has no operands to look at. -/
theorem gfmulIssuesFromIdle : Obligations.GfmulIssuesFromIdle := by
  refine ⟨fun a b s hp => ⟨_, exec_gfmul_of_idle a b hp, rfl, rfl, rfl, rfl, rfl, rfl, rfl, rfl, rfl, rfl⟩,
    fun s hrst hreq hp => ?_,
    fun s hp a b a' b' => sameOutcome_of_next_eq (exec_gfmul_of_not_idle a b hp) (exec_gfmul_of_not_idle a' b' hp),
    fun a b s hp => ⟨_, exec_gfmul_of_not_idle a b hp, waitEdge_requestTrace s⟩⟩
  have hedge := clockEdge_of_issue Config.latency (stepName_eq_issue_iff.mpr ⟨hrst, hp, hreq⟩)
  exact ⟨_, step_eq_next_iff.mpr hedge, rfl, rfl, rfl, rfl, rfl⟩

/-- Settles O33. -/
theorem executeHoldsTheProduct : Obligations.ExecuteHoldsTheProduct := by
  intro s hrst hp hcnt
  have hedge := clockEdge_of_execute Config.latency (stepName_eq_execute hrst hp hcnt)
  refine ⟨_, step_eq_next_iff.mpr hedge, rfl, rfl, rfl, rfl, rfl, rfl, rfl, fun p hprst => ?_⟩
  rw [← step_withPorts_ports s]
  exact step_withPorts_of_busy hp hprst hrst

/-- Settles O51. -/
theorem resetIsFaithful : Obligations.ResetIsFaithful := (faithful_iff_of_idle rfl).mpr ⟨rfl, rfl⟩

/-- Settles O56: the constructors of the relation, each with the phase it starts from. -/
theorem transactionStepsByPhase : Obligations.TransactionStepsByPhase := by
  refine ⟨fun s t l h hp => ?idle, fun s t l h hp => ?busy, fun s t l h hp => ?done⟩
  case idle =>
    cases h with
    | issue a b p _ => exact .inl ⟨a, b, rfl, rfl, rfl, rfl⟩
    | execute x y hbusy => simp [hp] at hbusy
    | retire p x y hdone _ => simp [hp] at hdone
    | hold _ => exact .inr (.inl ⟨rfl, rfl⟩)
    | reset x y => exact .inr (.inr ⟨rfl, rfl⟩)
  case busy =>
    cases h with
    | issue a b p hidle => simp [hp] at hidle
    | execute x y _ => exact .inl ⟨rfl, rfl, rfl⟩
    | retire p x y hdone _ => simp [hp] at hdone
    | hold hnot => exact absurd hp hnot
    | reset x y => exact .inr ⟨rfl, rfl⟩
  case done =>
    cases h with
    | issue a b p hidle => simp [hp] at hidle
    | execute x y hbusy => simp [hp] at hbusy
    | retire p x y _ hheld => exact .inl ⟨p, rfl, hheld, rfl, rfl⟩
    | hold _ => exact .inr (.inl ⟨rfl, rfl⟩)
    | reset x y => exact .inr (.inr ⟨rfl, rfl⟩)

/-- Settles O59. -/
theorem foldAsksOneGfmulPerBlock : Obligations.FoldAsksOneGfmulPerBlock := by
  intro order rows
  have hlist := foldRequests_eq_flatten order rows
  refine ⟨hlist, ?_, fun i => ?_⟩
  · simp [hlist, Function.comp_def]
  · simp [hlist, eq_comm]

end Sys2Proof.Proofs
end

section
/-! SUPPORT. The rows of R97 by their guards: what the row taken at an edge says of the inputs and the phase
(spec/60_exceptions.md R108). -/

namespace Sys2Proof.Machine

/-- The guard of each row of R97; that of every row but RESET has `rst = 0` (R108). -/
def State.RowGuard (s : State) : StepName → Prop
  | .reset => s.ports.rst = true
  | .issue => s.ports.rst = false ∧ s.phase = .idle ∧ s.ports.reqValid = true
  | .tick => s.ports.rst = false ∧ s.phase = .busy ∧ s.cnt ≠ 0
  | .execute => s.ports.rst = false ∧ s.phase = .busy ∧ s.cnt = 0
  | .retire => s.ports.rst = false ∧ s.phase = .done ∧ s.ports.rspReady = true
  | .hold => s.ports.rst = false ∧
      (s.phase = .idle ∧ s.ports.reqValid = false ∨ s.phase = .done ∧ s.ports.rspReady = false)

/-- The row taken at an edge is one whose guard holds. -/
theorem rowGuard_stepName (s : State) : s.RowGuard (stepName s) := by
  cases hrst : s.ports.rst with
  | true =>
    rw [stepName_of_rst hrst]
    exact hrst
  | false =>
    cases hp : s.phase with
    | idle => cases hreq : s.ports.reqValid <;> simp [stepName_of_idle hrst hp, State.RowGuard, hrst, hp, hreq]
    | busy => by_cases hcnt : s.cnt = 0 <;> simp [stepName_of_busy hrst hp, State.RowGuard, hrst, hp, hcnt]
    | done => cases hrsp : s.ports.rspReady <;> simp [stepName_of_done hrst hp, State.RowGuard, hrst, hp, hrsp]

theorem rowGuard_of_stepName_eq {s : State} {row : StepName} (h : stepName s = row) : s.RowGuard row :=
  h ▸ rowGuard_stepName s

/-- No request beat transfers at a RESET edge (R108). -/
theorem requestTransfers_of_rst {s : State} (h : s.ports.rst = true) : s.requestTransfers = false := by
  simp [State.requestTransfers, h]

/-- No response beat transfers at a RESET edge (R108). -/
theorem responseTransfers_of_rst {s : State} (h : s.ports.rst = true) : s.responseTransfers = false := by
  simp [State.responseTransfers, h]

end Sys2Proof.Machine
end

section
/-! The statements of spec/60_exceptions.md, settled. -/

namespace Sys2Proof.Proofs

open Sys2Proof.Machine

/-- Settles O39: at `rst = 1` the edge is RESET, which adds no beat to a trace; at `rst = 0` the row taken has its guard. -/
theorem resetHasPrecedence : Obligations.ResetHasPrecedence := by
  refine ⟨fun s hrst => ?reset, fun s hrst =>
    ⟨fun hname => ?notReset, fun hname => ?issue, fun hname => ?tick, fun hname => ?execute, fun hname => ?retire⟩⟩
  case reset =>
    exact ⟨stepName_of_rst hrst, requestTransfers_of_rst hrst, responseTransfers_of_rst hrst, _,
      step_eq_next_iff.mpr (clockEdge_of_rst _ hrst), rfl, rfl, rfl, rfl⟩
  case notReset =>
    have hreset : s.ports.rst = true := rowGuard_of_stepName_eq hname
    simp [hrst] at hreset
  case issue =>
    obtain ⟨-, hidle, -⟩ := rowGuard_of_stepName_eq hname
    exact hidle
  case tick =>
    obtain ⟨-, hguard⟩ := rowGuard_of_stepName_eq hname
    exact hguard
  case execute =>
    obtain ⟨-, hguard⟩ := rowGuard_of_stepName_eq hname
    exact hguard
  case retire =>
    obtain ⟨-, hdone, -⟩ := rowGuard_of_stepName_eq hname
    exact hdone

/-- Settles O41: `Fault` has no constructor, and a run is a run of clocked edges. -/
theorem nothingEverStops : Obligations.NothingEverStops :=
  ⟨nofun, exec_goesOn, fun n s => ⟨_, core_run_eq_runEdges n s⟩⟩

end Sys2Proof.Proofs
end

section
/-! SUPPORT. The RESET row of R97 and edges at which `rst` is held high (spec/70_reset_and_hazards.md R120, R121). -/

namespace Sys2Proof.Machine

/-- The count after RESET is free within R17's range (log 11). -/
theorem resetEdge_cnt_lt {latency : Nat} (hlat : 1 ≤ latency) (s : State) : (resetEdge latency s).cnt < latency :=
  Nat.mod_lt _ hlat

/-- R17 and R26 hold after a RESET edge whatever the block held before. -/
theorem consistent_resetEdge {latency : Nat} (hlat : 1 ≤ latency) (s : State) :
    (resetEdge latency s).Consistent latency :=
  ⟨by simp, resetEdge_cnt_lt hlat s⟩

theorem step_of_rst {s : State} (h : s.ports.rst = true) : step s = .next (resetEdge Config.latency s) :=
  step_eq_next_iff.mpr (clockEdge_of_rst _ h)

/-- All that `n` edges of a held reset record is the resets. -/
theorem runEdges_trace_of_rst {latency n : Nat} {s : State}
    (h : ∀ k, k < n → (runEdges latency k s).ports.rst = true) :
    (runEdges latency n s).trace = List.replicate n .reset ++ s.trace := by
  induction n with
  | zero => rfl
  | succ n ih =>
    have hsofar := ih fun k hk => h k (by omega)
    rw [runEdges_succ_last, clockEdge_of_rst latency (h n (by omega)), resetEdge_trace, hsofar, List.replicate_succ,
      List.cons_append]

@[simp] theorem requestTrace_replicate_reset (n : Nat) (es : List Event) :
    requestTrace (List.replicate n .reset ++ es) = requestTrace es := by
  induction n with
  | zero => rfl
  | succ n ih => rw [List.replicate_succ, List.cons_append, requestTrace_reset, ih]

@[simp] theorem responseTrace_replicate_reset (n : Nat) (es : List Event) :
    responseTrace (List.replicate n .reset ++ es) = responseTrace es := by
  induction n with
  | zero => rfl
  | succ n ih => rw [List.replicate_succ, List.cons_append, responseTrace_reset, ih]

end Sys2Proof.Machine
end

section
/-! The statements of spec/70_reset_and_hazards.md, settled. -/

namespace Sys2Proof.Proofs

open Sys2Proof.Machine

/-- Settles O46: the last of the edges is a RESET step, and no edge of a held reset records a beat. -/
theorem heldResetIsOneReset : Obligations.HeldResetIsOneReset := by
  intro n s hn hheld
  obtain ⟨m, rfl⟩ := Nat.exists_eq_add_of_le' hn
  have htrace := runEdges_trace_of_rst hheld
  have hlast : runEdges Config.latency (m + 1) s = resetEdge Config.latency (runEdges Config.latency m s) := by
    rw [runEdges_succ_last, clockEdge_of_rst _ (hheld m (by omega))]
  have hidle : (runEdges Config.latency (m + 1) s).phase = .idle := by rw [hlast, resetEdge_phase]
  exact ⟨_, core_run_eq_runEdges (m + 1) s, hidle, by rw [hlast, resetEdge_prod], (reqReady_eq_true_iff _).mpr hidle,
    by simp [rspValid_eq_decide, hidle], by rw [htrace, requestTrace_replicate_reset],
    by rw [htrace, responseTrace_replicate_reset], fun hrst hreq => stepName_eq_issue_iff.mpr ⟨hrst, hidle, hreq⟩⟩

/-- Settles O47: a faithful block outside IDLE has a request pending, whose response the RESET step takes out of those
expected; which row `rst = 0` would have taken plays no part. -/
theorem resetDiscardsTheTransaction : Obligations.ResetDiscardsTheTransaction := by
  intro s hs hp hrst
  obtain ⟨a, b, hpending, -⟩ := hs.in_flight hp
  exact ⟨_, step_of_rst hrst, rfl, rfl, rfl, rfl, expectedResponses_reset_of_pending hpending,
    hs.after_reset Config.latency⟩

/-- Settles O45: no field the RESET row fixes depends on what the block held. -/
theorem resetStepGivesIdle : Obligations.ResetStepGivesIdle := fun s hrst =>
  ⟨_, step_of_rst hrst, rfl, rfl, resetEdge_cnt_lt one_le_configLatency s, rfl, rfl, rfl,
    consistent_resetEdge one_le_configLatency s⟩

end Sys2Proof.Proofs
end

section
/-! SUPPORT. Request beats as bytes and as table words: what the decoders answer, and the step at a beat that
`withFetchWord` offers (spec/30_encoding.md R46, R48, R51; the byte layout is log 9). -/

namespace Sys2Proof.Machine

open Sys2Proof.Laws

/-! ### The byte decoder -/

theorem decodeBytes_of_length {bytes : List Byte} (h : bytes.length = requestBytes) :
    decodeBytes bytes = .ok (decode (BitVec.ofNat 256 (natOfBytes bytes))) := by
  simp [decodeBytes, requestLengthOk, h]

theorem decodeBytes_of_length_ne {bytes : List Byte} (h : bytes.length ≠ requestBytes) :
    decodeBytes bytes = .error (.notARequestBeat bytes.length) := by
  simp [decodeBytes, requestLengthOk, h]

/-- The 32 bytes of any number decode to the operation of its low 256 bits. -/
theorem decodeBytes_bytesOfNat (n : Nat) :
    decodeBytes (bytesOfNat requestBytes n) = .ok (decode (BitVec.ofNat 256 n)) := by
  have hword : BitVec.ofNat 256 (n % 256 ^ requestBytes) = BitVec.ofNat 256 n := by
    apply BitVec.eq_of_toNat_eq
    simp [requestBytes]
  rw [decodeBytes_of_length (bytesOfNat_length requestBytes n), natOfBytes_bytesOfNat, hword]

theorem decodeBytes_encodeBytes (i : Instr) : decodeBytes (encodeBytes i) = .ok i := by
  rw [encodeBytes, decodeBytes_bytesOfNat, BitVec.ofNat_toNat, BitVec.setWidth_eq, decode_encode]

/-- A byte sequence stands for a number of no more bytes. -/
theorem natOfBytes_lt (bytes : List Byte) : natOfBytes bytes < 256 ^ bytes.length := by
  have hmod := natOfBytes_bytesOfNat bytes.length (natOfBytes bytes)
  rw [bytesOfNat_natOfBytes] at hmod
  rw [hmod]
  exact Nat.mod_lt _ (by positivity)

/-- No byte of a whole beat is lost by the word it is read as. -/
theorem encodeBytes_decode_natOfBytes {bytes : List Byte} (h : bytes.length = requestBytes) :
    encodeBytes (decode (BitVec.ofNat 256 (natOfBytes bytes))) = bytes := by
  have hlt := natOfBytes_lt bytes
  rw [h, show 256 ^ requestBytes = 2 ^ 256 from rfl] at hlt
  rw [encodeBytes, encode_decode, BitVec.toNat_ofNat, Nat.mod_eq_of_lt hlt, ← h, bytesOfNat_natOfBytes]

/-! ### Table words -/

theorem decodeTableWord_of_le {nbits : Nat} (h : nbits ≤ 256) (w : Nat) :
    decodeTableWord nbits w = some (decode (BitVec.ofNat 256 (w % 2 ^ nbits))) := by
  simp [decodeTableWord, h, decodeBytes_bytesOfNat]

theorem fieldA_ofNat (n : Nat) : fieldA (BitVec.ofNat 256 n) = BitVec.ofNat 128 (n / 2 ^ 128) := by
  apply BitVec.eq_of_toNat_eq
  simp [fieldA, Nat.shiftRight_eq_div_pow]
  omega

theorem fieldB_ofNat (n : Nat) : fieldB (BitVec.ofNat 256 n) = BitVec.ofNat 128 n := by
  apply BitVec.eq_of_toNat_eq
  simp [fieldB]

/-- The step from `withFetchWord` runs what the offered word decodes to: the ports carry the word's fields, which make
the word again. -/
theorem step_withFetchWord (s : State) (nbits w : Nat) :
    step (s.withFetchWord nbits w) =
      exec (decode (BitVec.ofNat 256 (w % 2 ^ nbits))) (s.withFetchWord nbits w) := by
  rw [step_of_request (by rw [withFetchWord_ports]; rfl) (by rw [withFetchWord_ports]; rfl), withFetchWord_ports,
    offerPorts, requestWord_fieldA_fieldB]

end Sys2Proof.Machine
end

section
/-! The statements on beats as bytes and as table words, settled (spec/30_encoding.md). -/

namespace Sys2Proof.Proofs

open Sys2Proof.Machine

/-- Settles O2: bytes and words are the same numbers, and the word of a beat is taken apart and put together without
loss. -/
theorem bytesDecodeAndEncodeAgree : Obligations.BytesDecodeAndEncodeAgree :=
  ⟨fun i _ => decodeBytes_encodeBytes i,
    fun _ hlen => ⟨_, decodeBytes_of_length hlen, encodeBytes_decode_natOfBytes hlen⟩⟩

/-- Settles O5: the decoder and the step read the same 256 bits. -/
theorem fetchWordIsDecodedAndRun : Obligations.FetchWordIsDecodedAndRun := fun s nbits w hlen =>
  ⟨_, _, decodeTableWord_of_le hlen w, fieldA_ofNat _, fieldB_ofNat _, step_withFetchWord s nbits w⟩

/-- Settles O3: each printed word is the request word of its two operands. -/
theorem printedRequestWordsDecode : Obligations.PrintedRequestWordsDecode :=
  ⟨decode_requestWord 0x2#128 0x80000000000000000000000000000000#128, decode_requestWord 3#128 3#128,
    decode_requestWord 0xf3f49249dc28ff90a5aec7978306d03b#128 0xe512148239292d22e255accb1a466884#128,
    decode_requestWord 0#128 0#128⟩

/-- Settles O4: the length check is the one test the byte decoder makes (R51). -/
theorem otherLengthsAreNoBeat : Obligations.OtherLengthsAreNoBeat := fun _ h => decodeBytes_of_length_ne h

end Sys2Proof.Proofs
end
